-- ==== Sys2Proof/Word.lean ====
section
/-! DEFINITION. The words of the block: a segment mask, a command word, a read-port word (R51, R70, R40, R100). -/

namespace Sys2Proof

/-- A segment mask, one entry of the mask buffer (R28, R100). -/
abbrev Byte := BitVec 8

/-- A command word as it stands on `cmd_data` (R34, R70). -/
abbrev CmdWord := BitVec 64

/-- A word of the read port (R40). -/
abbrev RdWord := BitVec 32

end Sys2Proof
end

