-- ==== Sys2Proof/Config.lean ====
section
/-! DEFINITION. What an implementation of the block fixes (the build parameters of R6) and the free values. -/

namespace Sys2Proof

/-- The build parameters of R6. A model takes them as arguments: a State carries them in a field no step writes (log 1),
so that every claim over all states is a claim over all parameter sets. Their constraints are `Params.valid`. -/
structure Params where
  /-- `MAX_DIGITS`: digit lines and mask entries. -/
  maxDigits : Nat
  /-- `ON_TIME_MAX`: ceiling of the on-time, in microseconds. -/
  onTimeMax : Nat
  /-- `SKIP_MAX`: ceiling of the skip-cycle count. -/
  skipMax : Nat
  /-- `CYCLES_PER_US`: clock cycles in a microsecond. The spec leaves it OPEN (D27). -/
  cyclesPerUs : Nat
  /-- `HAS_SET_NUMBER`: whether SET_NUMBER is built (D34). -/
  hasSetNumber : Bool
  /-- `SYMBOL_TABLE`: the masks of symbols 0 to 17 (R103). -/
  symbolTable : List Byte
  deriving DecidableEq, Repr

/-- The free values: what the block holds or shows after the one undefined event of the spec (R202, I1). The first argument
counts the undefined events, the second names the element. It has no body, so nothing can be proved of a value (log 7). -/
opaque Config.freeBits : Nat → Nat → BitVec 64

end Sys2Proof
end

