-- ==== Sys2Proof/Machine/Build.lean ====
section
/-! DEFINITION. The build parameters: their constraints and the values this spec takes (R6, R103). -/

namespace Sys2Proof

/-- Symbols 0 to 9 (R103): entry 0 is the source's, the others the spec's default glyphs (I2, G1). -/
def Machine.digitGlyphs : List Byte :=
  [0x3F#8, 0x06#8, 0x5B#8, 0x4F#8, 0x66#8, 0x6D#8, 0x7D#8, 0x07#8, 0x7F#8, 0x6F#8]

/-- Symbols 10 to 15: A, b, c, d, E, F (R101, R103), the spec's default glyphs. -/
def Machine.letterGlyphs : List Byte := [0x77#8, 0x7C#8, 0x58#8, 0x5E#8, 0x79#8, 0x71#8]

/-- Symbols 16 BLANK and 17 DASH (R101, R103). -/
def Machine.blankAndDash : List Byte := [0x00#8, 0x40#8]

/-- `SYMBOL_TABLE` with the spec's default entries (R103). -/
def Machine.defaultSymbolTable : List Byte :=
  Machine.digitGlyphs ++ Machine.letterGlyphs ++ Machine.blankAndDash

/-- The parameter values this spec takes (R6). `CYCLES_PER_US` is OPEN in the spec (D27); the value here is the model's
choice for the reset state only (log 2). -/
def Machine.defaultParams : Params :=
  { maxDigits := 8, onTimeMax := 1000, skipMax := 255, cyclesPerUs := 1, hasSetNumber := true,
    symbolTable := Machine.defaultSymbolTable }

/-- The constraints on `SYMBOL_TABLE`: 18 entries, entries 0, 16 and 17 fixed, bit 7 of every entry 0 (R6, R103). -/
def Params.tableValid (p : Params) : Bool :=
  p.symbolTable.length == 18 && p.symbolTable[0]? == some 0x3F#8 && p.symbolTable[16]? == some 0x00#8
    && p.symbolTable[17]? == some 0x40#8 && p.symbolTable.all (fun m => !m.getLsbD 7)

/-- The constraints of R6 on a parameter set. -/
def Params.valid (p : Params) : Bool :=
  decide (1 ≤ p.maxDigits) && decide (p.maxDigits ≤ 8) && decide (1 ≤ p.onTimeMax) && decide (p.onTimeMax ≤ 65535)
    && decide (p.skipMax ≤ 255) && decide (1 ≤ p.cyclesPerUs) && decide (p.onTimeMax * p.cyclesPerUs ≤ 2 ^ 32)
    && p.tableValid

/-- `SYM(s) = SYMBOL_TABLE[s]`, the mask of a valid symbol (R104); no caller evaluates it on an invalid one (log 11). -/
def Params.sym (p : Params) (s : Nat) : Byte := p.symbolTable.getD s 0#8

end Sys2Proof
end

