-- ==== Sys2Proof/Syntax.lean ====
section
/-! DEFINITION. The commands of the block: one constructor of `Instr` per row of the opcode table (R72), with the operands
its format gives it (R71, R73). -/

namespace Sys2Proof

/-- The drive-polarity modes, in the order of their codes 0 to 3 (R25, D11). -/
inductive Polarity where
  | commonCathode
  | commonAnode
  | nTransistor
  | pTransistor
  deriving DecidableEq, Repr

/-- The refresh strategies: SWEEP has code 0 and STEP code 1 (R26). Also the two values of `seq_mode` (R32). -/
inductive Strategy where
  | sweep
  | step
  deriving DecidableEq, Repr

/-- A command. Operands the spec reads as integers (R73) are integers; fields of fixed width are bit vectors. -/
inductive Instr where
  /-- NOP (R183). -/
  | nop
  /-- CONFIGURE(POL, STRAT, DCNT) (R180). -/
  | configure (pol : Polarity) (strat : Strategy) (dcnt : BitVec 4)
  /-- SET_DIGIT(POS, SYM) (R110). -/
  | setDigit (pos : BitVec 4) (sym : BitVec 5)
  /-- SET_DIGITS(CNT, SYM0 .. SYM7) (R112). -/
  | setDigits (cnt : BitVec 4) (sym0 sym1 sym2 sym3 sym4 sym5 sym6 sym7 : BitVec 5)
  /-- SET_BRIGHTNESS(VAL), VAL a 16-bit signed integer (R160, R73). -/
  | setBrightness (val : Int)
  /-- REFRESH (R140). -/
  | refresh
  /-- REFRESH.T(OT) (R141). -/
  | refreshT (ot : BitVec 16)
  /-- ADVANCE_STEP (R142). -/
  | advanceStep
  /-- SET_NUMBER(SGN, DP, VAL), VAL a 32-bit integer, signed when SGN = 1 (R115, R73). -/
  | setNumber (sgn : Bool) (dp : BitVec 4) (val : Int)
  /-- A reserved opcode, 0x8 to 0xF (R75, R184, log 13). -/
  | reserved (op : BitVec 4)
  deriving DecidableEq, Repr

end Sys2Proof
end

