-- ==== Sys2Proof/Machine/State.lean ====
section
/-! DEFINITION. The state of the block as plain data (R23 to R33), the host's coming port values (R34, R35, R40), the
reasons a step can stop, and the state after reset (R42). -/

namespace Sys2Proof.Machine

/-- The mask buffer: position and mask, positions strictly rising, no entry equal to what an unlisted position reads as
(R28, R50, log 9). -/
abbrev Memory := List Host.Cell

/-- `seq`: the next micro-operation, codes 0 to 6 in this order; code 7 is never entered (R32). -/
inductive Seq where
  | idle
  | segOn
  | digOn
  | hold
  | digOff
  | segOff
  | adv
  deriving DecidableEq, Repr

/-- The values the host drives on the input ports at one rising edge (R34, R35, R40). -/
structure EdgeInput where
  /-- `rst`. -/
  rst : Bool
  /-- `cmd_valid`. -/
  cmdValid : Bool
  /-- `cmd_data`. -/
  cmdData : CmdWord
  /-- `rd_addr`. -/
  rdAddr : BitVec 6
  deriving DecidableEq, Repr

/-- The state of the block and, beside it, the build parameters, the host's coming inputs and the free-value counter. -/
@[ext]
structure State where
  /-- The build parameters (R6); no step writes them (log 1). -/
  params : Params
  /-- `cfg_done` (R23). -/
  cfgDone : Bool
  /-- `ub_fault` (R24). -/
  ubFault : Bool
  /-- `polarity` (R25). -/
  polarity : Polarity
  /-- `dig_on_lvl` (R25). -/
  digOnLvl : Bool
  /-- `seg_on_lvl` (R25). -/
  segOnLvl : Bool
  /-- `strategy` (R26). -/
  strategy : Strategy
  /-- `digit_count` (R27). -/
  digitCount : BitVec 4
  /-- `mask[0 .. MAX_DIGITS-1]` (R28). -/
  mask : Memory
  /-- `on_time`, microseconds (R29). -/
  onTime : BitVec 16
  /-- `skip` (R29). -/
  skip : BitVec 8
  /-- `pos` (R30). -/
  pos : BitVec 9
  /-- `seq` (R32). -/
  seq : Seq
  /-- `seq_mode`: SWEEP while a sweep runs, STEP while a step runs (R32). -/
  seqMode : Strategy
  /-- `cur_seg` (R32). -/
  curSeg : BitVec 3
  /-- `hold_cnt` (R32, R206). -/
  holdCnt : BitVec 32
  /-- `sweep_t`, microseconds (R32). -/
  sweepT : BitVec 16
  /-- `seg_act`: bit j is 1 when segment line j is asserted (R33). -/
  segAct : Byte
  /-- `dig_act`: bit i is 1 when digit line i is asserted (R33); the bits from `MAX_DIGITS` up are 0. -/
  digAct : Byte
  /-- The host's port values at the coming edges, the next edge first (R10, R228, log 4). -/
  inputs : List EdgeInput
  /-- The undefined events so far: the index of the free values (log 7). -/
  freeCount : Nat
  deriving DecidableEq, Repr

/-- Why the block stops with a fault. Both carry the state the fault leaves: `ub_fault` 1 and every other element a free
value (R202, log 6). -/
inductive Fault where
  /-- `ReconfigureUndefined`: raised by CONFIGURE accepted while `cfg_done = 1` (R181, R202). Safe: the run stops, and the
  state it leaves holds free values only. -/
  | reconfigureUndefined (after : State)
  /-- Raised by a step at an edge with `rst = 0` while `ub_fault = 1`, whose next state is unspecified (R131, R202, log 8).
  Safe, for the same reason. -/
  | inFaultState (after : State)
  deriving DecidableEq, Repr

/-- Why the model refuses to go on. -/
inductive Refusal where
  /-- Raised by an arm of `exec` for an instruction without a meaning, named as the opcode table names it. Safe. No arm
  raises it in this model. -/
  | notModelled (mnemonic : String)
  /-- Raised by a step of a block whose parameter set breaks a constraint of R6 (R6, I5, I6, log 3). Safe. -/
  | parameterSet
  deriving DecidableEq, Repr

/-- The outcome of a command or of an edge. -/
abbrev Result := Host.Outcome State Fault Refusal

/-- The reset state of a block built with parameters `p` (R42). -/
def State.resetWith (p : Params) : State :=
  { params := p, cfgDone := false, ubFault := false, polarity := .commonCathode, digOnLvl := false, segOnLvl := false,
    strategy := .sweep, digitCount := 0#4, mask := [], onTime := BitVec.ofNat 16 p.onTimeMax, skip := 0#8, pos := 0#9,
    seq := .idle, seqMode := .sweep, curSeg := 0#3, holdCnt := 0#32, sweepT := 0#16, segAct := 0#8, digAct := 0#8,
    inputs := [], freeCount := 0 }

/-- The block right after reset, built with the parameter values this spec takes (R42, R6, log 2). Nothing is said
of the time before the first reset (R221, log 10). -/
def State.reset : State := State.resetWith defaultParams

end Sys2Proof.Machine
end

