-- ==== Sys2Proof/Machine/Ops.lean ====
section
/-! DEFINITION. The shared operations: reading and writing the mask buffer, starting the sequencer, the phase index, reset,
and the block's one exception (R9, R50, R132, R202, R220). -/

namespace Sys2Proof.Machine

/-! ### The mask buffer -/

/-- What a position nothing has written reads as: the reset contents of the mask buffer (R42, log 9). -/
abbrev Memory.unlisted : Byte := 0x00#8

/-- `mask[i]` (R9, R28). -/
def Memory.read : Memory → Nat → Byte
  | [], _ => Memory.unlisted
  | (b, u) :: rest, a => if a = b then u else Memory.read rest a

/-- `mask[a] <- v`: all 8 bits of one entry (R9, R53). The canonical form is kept (log 9). -/
def Memory.write : Memory → Nat → Byte → Memory
  | [], a, v => if v = Memory.unlisted then [] else [(a, v)]
  | (b, u) :: rest, a, v =>
    if a < b then (if v = Memory.unlisted then (b, u) :: rest else (a, v) :: (b, u) :: rest)
    else if a = b then (if v = Memory.unlisted then rest else (a, v) :: rest)
    else (b, u) :: Memory.write rest a v

/-- A write that may be masked off: nothing is written where there is no value (R110, R113). -/
def Memory.writeOpt (m : Memory) (a : Nat) (v : Option Byte) : Memory :=
  match v with
  | none => m
  | some u => Memory.write m a u

/-- The batch write of positions `0 .. n-1`, position k with `f k`, masked off where that is none. All the writes land at
one edge, so their order is unobservable (R53, R113). -/
def Memory.writeEach : Nat → (Nat → Option Byte) → Memory → Memory
  | 0, _, m => m
  | n + 1, f, m => Memory.writeOpt (Memory.writeEach n f m) n (f n)

/-- The canonical form of a mask buffer: positions strictly rising, no entry equal to what an unlisted position reads as. -/
abbrev Memory.wf (m : Memory) : Prop :=
  m.Pairwise (fun c d => c.1 < d.1) ∧ ∀ c ∈ m, c.2 ≠ Memory.unlisted

/-! ### The sequencer -/

/-- What an accepted REFRESH or REFRESH.T does with its on-time (R140, R141). -/
def startSweep (t : BitVec 16) (s : State) : State :=
  { s with seqMode := .sweep, curSeg := 0#3, sweepT := t, seq := .segOn }

/-- `ph`, the phase index of the running sweep or step (R132). -/
def phase (s : State) : Nat :=
  match s.seqMode with
  | .sweep => s.curSeg.toNat
  | .step => s.pos.toNat

/-- Line j's bit alone; no bit where there is no such line (log 11). -/
def lineBit (j : Nat) : Byte := BitVec.ofNat 8 (2 ^ j)

/-- The digit lines DIG_ON asserts: every declared one whose mask has the phase's bit set (R134). -/
def litDigits (s : State) : Byte :=
  BitVec.ofFnLE (n := 8) fun i =>
    decide (i.val < s.params.maxDigits) && decide (i.val < s.digitCount.toNat)
      && (Memory.read s.mask i.val).getLsbD (phase s)

/-! ### Reset -/

/-- A rising edge with `rst = 1`: every state element takes its reset value (R42, R220). The parameters, the host's coming
inputs and the free-value counter are no state of the block and stay. -/
def resetEdge (s : State) : State :=
  { State.resetWith s.params with inputs := s.inputs, freeCount := s.freeCount }

/-! ### The exception (R202) -/

/-- A micro-operation from a free 3-bit value; 7 is no micro-operation (R32, log 7). -/
def seqOfBits (n : Nat) : Seq :=
  match n with
  | 1 => .segOn
  | 2 => .digOn
  | 3 => .hold
  | 4 => .digOff
  | 5 => .segOff
  | 6 => .adv
  | _ => .idle

/-- The state the undefined event leaves: `ub_fault` is 1 and every other state element is a free value (R181, R202, I1). -/
def faultedState (s : State) : State :=
  { params := s.params
    cfgDone := (Config.freeBits s.freeCount 0).getLsbD 0
    ubFault := true
    polarity := match (Config.freeBits s.freeCount 1).toNat % 4 with
      | 0 => .commonCathode
      | 1 => .commonAnode
      | 2 => .nTransistor
      | _ => .pTransistor
    digOnLvl := (Config.freeBits s.freeCount 2).getLsbD 0
    segOnLvl := (Config.freeBits s.freeCount 3).getLsbD 0
    strategy := if (Config.freeBits s.freeCount 4).getLsbD 0 then .step else .sweep
    digitCount := (Config.freeBits s.freeCount 5).setWidth 4
    mask := Memory.writeEach s.params.maxDigits (fun i => some ((Config.freeBits s.freeCount (32 + i)).setWidth 8)) s.mask
    onTime := (Config.freeBits s.freeCount 6).setWidth 16
    skip := (Config.freeBits s.freeCount 7).setWidth 8
    pos := (Config.freeBits s.freeCount 8).setWidth 9
    seq := seqOfBits ((Config.freeBits s.freeCount 9).toNat % 8)
    seqMode := if (Config.freeBits s.freeCount 10).getLsbD 0 then .step else .sweep
    curSeg := (Config.freeBits s.freeCount 11).setWidth 3
    holdCnt := (Config.freeBits s.freeCount 12).setWidth 32
    sweepT := (Config.freeBits s.freeCount 13).setWidth 16
    segAct := (Config.freeBits s.freeCount 14).setWidth 8
    digAct := BitVec.ofFnLE (n := 8) fun i =>
      decide (i.val < s.params.maxDigits) && (Config.freeBits s.freeCount 15).getLsbD i.val
    inputs := s.inputs
    freeCount := s.freeCount + 1 }

/-- `raise ReconfigureUndefined()`, the only exception primitive (R9): a fault, as R202 requires of a model. There is no
handler, no saved state and no return; reset is the only way on (R201, R222). -/
def raiseReconfigureUndefined (s : State) : Result :=
  .fault (.reconfigureUndefined (faultedState s))

end Sys2Proof.Machine
end

