-- ==== Sys2Proof/Machine/Operands.lean ====
section
/-! DEFINITION. Operand values and the arithmetic of the commands: clamping, the brightness maps, the polarity levels,
symbol masks, and the decimal decomposition of SET_NUMBER (R8, R102, R115 to R117, R161, R162, R182). -/

namespace Sys2Proof.Machine

/-- `clamp(v, lo, hi)` (R8). -/
def clamp (v lo hi : Int) : Int := if v < lo then lo else if hi < v then hi else v

/-- `map_on_time(v)` (R161). -/
def mapOnTime (p : Params) (v : Int) : Int :=
  1 + (clamp v 0 100 * ((p.onTimeMax : Int) - 1)) / 100

/-- `map_skip(v)` (R162). -/
def mapSkip (p : Params) (v : Int) : Int :=
  ((255 - clamp v 0 255) * (p.skipMax : Int)) / 255

/-- `clamp(DCNT, 1, MAX_DIGITS)`: the digit count a CONFIGURE sets (R180). -/
def configuredCount (p : Params) (dcnt : BitVec 4) : BitVec 4 :=
  BitVec.ofInt 4 (clamp (dcnt.toNat : Int) 1 (p.maxDigits : Int))

/-- `clamp(OT, 1, ON_TIME_MAX)`: the on-time of a REFRESH.T (R141). -/
def sweepOnTime (p : Params) (ot : BitVec 16) : BitVec 16 :=
  BitVec.ofInt 16 (clamp (ot.toNat : Int) 1 (p.onTimeMax : Int))

/-- `dig_on_lvl` of `LEVELS[POL]` (R182, log 15). -/
def digOnLevel (p : Polarity) : Bool :=
  match p with
  | .commonCathode => false
  | .commonAnode => true
  | .nTransistor => true
  | .pTransistor => false

/-- `seg_on_lvl` of `LEVELS[POL]` (R182, log 15). -/
def segOnLevel (p : Polarity) : Bool :=
  match p with
  | .commonCathode => true
  | .commonAnode => false
  | .nTransistor => true
  | .pTransistor => false

/-- What `set_digit(p, s)` writes at position `p`: nothing at a position that is not declared or for an invalid symbol
(R102, R110). -/
def digitMask (s : State) (p : Nat) (sym : BitVec 5) : Option Byte :=
  if p < s.digitCount.toNat ∧ sym.toNat ≤ 17 then some (s.params.sym sym.toNat) else none

/-! ### The decimal decomposition -/

/-- The number of base-10 digits of `m`, 1 for 0 (R116); the first argument bounds the search. -/
def digitPlaces : Nat → Nat → Nat
  | 0, _ => 1
  | f + 1, m => if m < 10 then 1 else digitPlaces f (m / 10) + 1

/-- `digits10(M)`, most significant first: `d_j = (M // 10^j) mod 10` (R116). -/
def digits10 (m : Nat) : List Nat :=
  ((List.range (digitPlaces m m)).reverse).map fun j => m / 10 ^ j % 10

/-- The digits SET_NUMBER places: leading zeros are added so that a digit stands before the point (R115, D32). -/
def paddedDigits (m dp : Nat) : List Nat :=
  List.replicate (max (digits10 m).length (dp + 1) - (digits10 m).length) 0 ++ digits10 m

/-- The mask SET_NUMBER gives position `i` of `n` when the `d.length` digits `d` fit (R115, D31, D32, D33). -/
def numberPlace (p : Params) (neg : Bool) (dp : Nat) (d : List Nat) (n i : Nat) : Byte :=
  let k : Int := (i : Int) - ((n : Int) - (d.length : Int))
  if 0 ≤ k then
    let m := p.sym (d.getD k.toNat 0)
    if 0 < dp ∧ k = (d.length : Int) - 1 - (dp : Int) then m ||| 0x80#8 else m
  else if neg ∧ k = -1 then p.sym 17
  else p.sym 16

/-- The mask SET_NUMBER gives position `i` of the `n` declared ones: DASH everywhere when the value does not fit (R115,
R117). -/
def numberMask (p : Params) (sgn : Bool) (dp : Nat) (val : Int) (n i : Nat) : Byte :=
  let neg := sgn && decide (val < 0)
  let d := paddedDigits val.natAbs dp
  if n < d.length + neg.toNat then p.sym 17 else numberPlace p neg dp d n i

end Sys2Proof.Machine
end

