-- ==== Sys2Proof/Machine/Brightness.lean ====
section
/-! DEFINITION. SET_BRIGHTNESS (R160 to R162). -/

namespace Sys2Proof.Machine

/-- SET_BRIGHTNESS: the register of the configured strategy alone; no effect before configuration (R160, D23, R185). -/
def execSetBrightness (val : Int) (s : State) : Result :=
  .next
    (if s.cfgDone then
      match s.strategy with
      | .sweep => { s with onTime := BitVec.ofInt 16 (mapOnTime s.params val) }
      | .step => { s with skip := BitVec.ofInt 8 (mapSkip s.params val) }
    else s)

end Sys2Proof.Machine
end

