-- ==== Sys2Proof/Machine/Control.lean ====
section
/-! DEFINITION. CONFIGURE, NOP and the reserved opcodes (R180 to R184). -/

namespace Sys2Proof.Machine

/-- The mask buffer a CONFIGURE leaves: every entry BLANK (R180, D41). -/
def blankMasks (s : State) : Memory :=
  Memory.writeEach s.params.maxDigits (fun _ => some (s.params.sym 16)) s.mask

/-- The first CONFIGURE (R180). `on_time`, `skip` and the sequencer stay (D20). -/
def configureOnce (pol : Polarity) (strat : Strategy) (dcnt : BitVec 4) (s : State) : State :=
  { s with
    digitCount := configuredCount s.params dcnt
    polarity := pol
    digOnLvl := digOnLevel pol
    segOnLvl := segOnLevel pol
    strategy := strat
    mask := blankMasks s
    segAct := 0#8
    digAct := 0#8
    pos := 0#9
    cfgDone := true }

/-- CONFIGURE: the first acceptance configures (R180); a second raises `ReconfigureUndefined` before any field is examined
(R181, R203). -/
def execConfigure (pol : Polarity) (strat : Strategy) (dcnt : BitVec 4) (s : State) : Result :=
  if s.cfgDone then raiseReconfigureUndefined s else .next (configureOnce pol strat dcnt s)

/-- NOP: no state is written (R183). -/
def execNop (s : State) : Result := .next s

/-- A reserved opcode executes exactly as NOP (R184). -/
def execReserved (_op : BitVec 4) (s : State) : Result := .next s

end Sys2Proof.Machine
end

