-- ==== Sys2Proof/Machine/Encoder.lean ====
section
/-! DEFINITION. The commands that write the mask buffer: SET_DIGIT, SET_DIGITS, SET_NUMBER (R110 to R118). -/

namespace Sys2Proof.Machine

/-- Lane k of SET_DIGITS: slot k of the packed list (R112, R113). -/
def lane (sym0 sym1 sym2 sym3 sym4 sym5 sym6 sym7 : BitVec 5) (k : Nat) : BitVec 5 :=
  [sym0, sym1, sym2, sym3, sym4, sym5, sym6, sym7].getD k 0#5

/-- What lane k of SET_DIGITS writes at position k: nothing for an invalid symbol (R112, R113). -/
def laneMask (s : State) (sym0 sym1 sym2 sym3 sym4 sym5 sym6 sym7 : BitVec 5) (k : Nat) : Option Byte :=
  digitMask s k (lane sym0 sym1 sym2 sym3 sym4 sym5 sym6 sym7 k)

/-- What SET_NUMBER writes at position i (R115). -/
def numberEntry (s : State) (sgn : Bool) (dp : Nat) (val : Int) (i : Nat) : Option Byte :=
  some (numberMask s.params sgn dp val s.digitCount.toNat i)

/-- SET_DIGIT: one symbol's mask at one declared position; no effect before configuration (R110, R185). -/
def execSetDigit (pos : BitVec 4) (sym : BitVec 5) (s : State) : Result :=
  .next (if s.cfgDone then { s with mask := Memory.writeOpt s.mask pos.toNat (digitMask s pos.toNat sym) } else s)

/-- SET_DIGITS: all or nothing on the length, then each lane below CNT by itself (R112, R113, R185). -/
def execSetDigits (cnt : BitVec 4) (sym0 sym1 sym2 sym3 sym4 sym5 sym6 sym7 : BitVec 5) (s : State) : Result :=
  .next
    (if s.cfgDone ∧ cnt.toNat ≤ s.digitCount.toNat then
      { s with mask := Memory.writeEach cnt.toNat (laneMask s sym0 sym1 sym2 sym3 sym4 sym5 sym6 sym7) s.mask }
    else s)

/-- SET_NUMBER: the decimal decomposition at every declared position; a NOP where it is not built (R115, D34, R185). -/
def execSetNumber (sgn : Bool) (dp : BitVec 4) (val : Int) (s : State) : Result :=
  .next
    (if s.params.hasSetNumber ∧ s.cfgDone then
      { s with mask := Memory.writeEach s.digitCount.toNat (numberEntry s sgn dp.toNat val) s.mask }
    else s)

end Sys2Proof.Machine
end

