-- ==== Sys2Proof/Machine/Multiplex.lean ====
section
/-! DEFINITION. The drive commands REFRESH, REFRESH.T and ADVANCE_STEP (R140 to R142) and the sequencer's six
micro-operations (R133 to R139). -/

namespace Sys2Proof.Machine

/-- REFRESH: one full sweep at the stored on-time; a NOP before configuration and in STEP mode (R140, D25). -/
def execRefresh (s : State) : Result :=
  .next (if s.cfgDone ∧ s.strategy = .sweep then startSweep s.onTime s else s)

/-- REFRESH.T: one full sweep at an explicit on-time, `on_time` unchanged (R141, D24). -/
def execRefreshT (ot : BitVec 16) (s : State) : Result :=
  .next (if s.cfgDone ∧ s.strategy = .sweep then startSweep (sweepOnTime s.params ot) s else s)

/-- ADVANCE_STEP: one step of the segment-stepping strategy; a NOP before configuration and in SWEEP mode (R142, D25). -/
def execAdvanceStep (s : State) : Result :=
  .next
    (if s.cfgDone ∧ s.strategy = .step then
      { s with seqMode := .step, seq := if s.pos.toNat < 8 then .digOff else .adv }
    else s)

/-- SEG_ON (R133). -/
def segOnOp (s : State) : State := { s with segAct := s.segAct ||| lineBit (phase s), seq := .digOn }

/-- `h = sweep_t * CYCLES_PER_US - 1`, what DIG_ON loads into the hold counter (R134). -/
def holdLoad (s : State) : Int := (s.sweepT.toNat : Int) * (s.params.cyclesPerUs : Int) - 1

/-- DIG_ON (R134). -/
def digOnOp (s : State) : State :=
  match s.seqMode with
  | .sweep =>
    { s with digAct := litDigits s, holdCnt := BitVec.ofInt 32 (holdLoad s),
             seq := if holdLoad s = 0 then .digOff else .hold }
  | .step => { s with digAct := litDigits s, seq := .idle }

/-- HOLD (R135). -/
def holdOp (s : State) : State :=
  { s with holdCnt := s.holdCnt - 1#32, seq := if s.holdCnt - 1#32 = 0#32 then .digOff else .hold }

/-- DIG_OFF (R137). -/
def digOffOp (s : State) : State := { s with digAct := 0#8, seq := .segOff }

/-- SEG_OFF (R138). -/
def segOffOp (s : State) : State :=
  match s.seqMode with
  | .sweep =>
    if s.curSeg = 7#3 then { s with segAct := s.segAct &&& ~~~lineBit (phase s), curSeg := 0#3, seq := .idle }
    else { s with segAct := s.segAct &&& ~~~lineBit (phase s), curSeg := s.curSeg + 1#3, seq := .segOn }
  | .step => { s with segAct := s.segAct &&& ~~~lineBit (phase s), seq := .adv }

/-- `n = (pos + 1) mod (8 + skip)` (R139). -/
def nextPos (s : State) : Nat := (s.pos.toNat + 1) % (8 + s.skip.toNat)

/-- ADV (R139). -/
def advOp (s : State) : State :=
  { s with pos := BitVec.ofNat 9 (nextPos s), seq := if nextPos s < 8 then .segOn else .idle }

/-- The pending micro-operation of an edge (R131). -/
def microStep (s : State) : State :=
  match s.seq with
  | .idle => s
  | .segOn => segOnOp s
  | .digOn => digOnOp s
  | .hold => holdOp s
  | .digOff => digOffOp s
  | .segOff => segOffOp s
  | .adv => advOp s

end Sys2Proof.Machine
end

