-- ==== Sys2Proof/Machine/Dispatch.lean ====
section
/-! DEFINITION. `execute`: one arm per command, one direct call of its meaning (R131). -/

namespace Sys2Proof.Machine

def exec (i : Instr) (s : State) : Host.Outcome State Fault Refusal :=
  match i with
  | .nop => Sys2Proof.Machine.execNop s
  | .configure pol strat dcnt => Sys2Proof.Machine.execConfigure pol strat dcnt s
  | .setDigit pos sym => Sys2Proof.Machine.execSetDigit pos sym s
  | .setDigits cnt y0 y1 y2 y3 y4 y5 y6 y7 => Sys2Proof.Machine.execSetDigits cnt y0 y1 y2 y3 y4 y5 y6 y7 s
  | .setBrightness val => Sys2Proof.Machine.execSetBrightness val s
  | .refresh => Sys2Proof.Machine.execRefresh s
  | .refreshT ot => Sys2Proof.Machine.execRefreshT ot s
  | .advanceStep => Sys2Proof.Machine.execAdvanceStep s
  | .setNumber sgn dp val => Sys2Proof.Machine.execSetNumber sgn dp val s
  | .reserved op => Sys2Proof.Machine.execReserved op s

end Sys2Proof.Machine
end

