-- ==== Sys2Proof/WellFormed.lean ====
section
/-! DEFINITION. Which commands have a command word: the operand ranges of R73 that the types do not already give. -/

namespace Sys2Proof

/-- SET_BRIGHTNESS: VAL is in -32768 .. 32767 (R73). -/
abbrev wfBrightness (val : Int) : Prop := -32768 ≤ val ∧ val ≤ 32767

/-- SET_NUMBER: VAL fits 32 bits, signed when SGN = 1 and unsigned when SGN = 0 (R73). -/
abbrev wfNumber (sgn : Bool) (val : Int) : Prop :=
  if sgn then -2147483648 ≤ val ∧ val ≤ 2147483647 else 0 ≤ val ∧ val ≤ 4294967295

/-- A reserved opcode is one of 0x8 .. 0xF (R72, R75). -/
abbrev wfReserved (op : BitVec 4) : Prop := 8 ≤ op.toNat

/-- The command is one that a command word can carry. -/
abbrev Instr.wf (i : Instr) : Prop :=
  match i with
  | .nop => True
  | .configure _ _ _ => True
  | .setDigit _ _ => True
  | .setDigits _ _ _ _ _ _ _ _ _ => True
  | .setBrightness val => wfBrightness val
  | .refresh => True
  | .refreshT _ => True
  | .advanceStep => True
  | .setNumber sgn _ val => wfNumber sgn val
  | .reserved op => wfReserved op

end Sys2Proof
end

