-- ==== Sys2Proof/Decode.lean ====
section
/-! DEFINITION. The decoder, total on all 2^64 command words (R77), and the encoder, its inverse on words whose reserved
bits are 0 (R80). No word is rejected: the spec has no illegal encoding (R75). -/

namespace Sys2Proof

/-- The field `w[lo+len-1 : lo]` of a command word (R7). -/
def field (w : CmdWord) (lo len : Nat) : BitVec len := w.extractLsb' lo len

/-- The mode a 2-bit code names (R25). -/
def Polarity.ofCode (c : BitVec 2) : Polarity :=
  match c.toNat with
  | 0 => .commonCathode
  | 1 => .commonAnode
  | 2 => .nTransistor
  | _ => .pTransistor

/-- The 2-bit code of a mode (R25). -/
def Polarity.code (p : Polarity) : Nat :=
  match p with
  | .commonCathode => 0
  | .commonAnode => 1
  | .nTransistor => 2
  | .pTransistor => 3

/-- The strategy a bit names: 0 SWEEP, 1 STEP (R26). -/
def Strategy.ofBit (b : Bool) : Strategy := if b then .step else .sweep

/-- The bit of a strategy (R26). -/
def Strategy.bit (t : Strategy) : Bool :=
  match t with
  | .sweep => false
  | .step => true

/-- BRT `VAL`: `sext_16(w[15:0])` (R73). -/
def brightnessOperand (w : CmdWord) : Int := (field w 0 16).toInt

/-- NUM `VAL`: `sext_32(w[31:0])` when SGN = 1, `zext_32(w[31:0])` when SGN = 0 (R73). -/
def numberOperand (w : CmdWord) : Int :=
  if w.getLsbD 36 then (field w 0 32).toInt else ((field w 0 32).toNat : Int)

/-- `decode(w)` (R77). -/
def decode (w : CmdWord) : Instr :=
  match (field w 60 4).toNat with
  | 0 => .nop
  | 1 => .configure (Polarity.ofCode (field w 0 2)) (Strategy.ofBit (w.getLsbD 2)) (field w 8 4)
  | 2 => .setDigit (field w 8 4) (field w 0 5)
  | 3 =>
    .setDigits (field w 56 4) (field w 0 5) (field w 5 5) (field w 10 5) (field w 15 5) (field w 20 5) (field w 25 5)
      (field w 30 5) (field w 35 5)
  | 4 => .setBrightness (brightnessOperand w)
  | 5 => if w.getLsbD 16 then .refreshT (field w 0 16) else .refresh
  | 6 => .advanceStep
  | 7 => .setNumber (w.getLsbD 36) (field w 32 4) (numberOperand w)
  | _ => .reserved (field w 60 4)

/-- The value of an encoding as a number: the opcode at [63:60] and the fields at their places (R71, R80). -/
def encodeNat (i : Instr) : Nat :=
  match i with
  | .nop => 0
  | .configure pol strat dcnt => 0x1 * 2 ^ 60 + dcnt.toNat * 2 ^ 8 + strat.bit.toNat * 2 ^ 2 + pol.code
  | .setDigit pos sym => 0x2 * 2 ^ 60 + pos.toNat * 2 ^ 8 + sym.toNat
  | .setDigits cnt s0 s1 s2 s3 s4 s5 s6 s7 =>
    0x3 * 2 ^ 60 + cnt.toNat * 2 ^ 56 + (s0.toNat + s1.toNat * 2 ^ 5 + s2.toNat * 2 ^ 10 + s3.toNat * 2 ^ 15
      + s4.toNat * 2 ^ 20 + s5.toNat * 2 ^ 25 + s6.toNat * 2 ^ 30 + s7.toNat * 2 ^ 35)
  | .setBrightness val => 0x4 * 2 ^ 60 + (val % 2 ^ 16).toNat
  | .refresh => 0x5 * 2 ^ 60
  | .refreshT ot => 0x5 * 2 ^ 60 + 1 * 2 ^ 16 + ot.toNat
  | .advanceStep => 0x6 * 2 ^ 60
  | .setNumber sgn dp val => 0x7 * 2 ^ 60 + sgn.toNat * 2 ^ 36 + dp.toNat * 2 ^ 32 + (val % 2 ^ 32).toNat
  | .reserved op => op.toNat * 2 ^ 60

/-- The command word of a command, reserved bits 0 (R80; of a reserved opcode, log 13). -/
def encode (i : Instr) : CmdWord := BitVec.ofNat 64 (encodeNat i)

/-- The decoder on an opcode-table word of `nbits` bits; every command is one 64-bit parallel word, so the bits above
`nbits` are 0 and a longer word is no command (R70, R76, log 14). -/
def decodeTableWord (nbits w : Nat) : Option Instr :=
  if nbits ≤ 64 then some (decode (BitVec.ofNat 64 (w % 2 ^ nbits))) else none

end Sys2Proof
end

