-- ==== Sys2Proof/Machine/Edge.lean ====
section
/-! DEFINITION. One rising edge of the clock: the host's inputs at the edge, and the order in which the edge chooses what
it does (R131, R203, R34, R35). -/

namespace Sys2Proof.Machine

/-- The input ports of an edge at which the host does nothing (R228). -/
def EdgeInput.quiet : EdgeInput := { rst := false, cmdValid := false, cmdData := 0#64, rdAddr := 0#6 }

/-- The input ports of an edge at which the host presents the command word `w` (R34). -/
def EdgeInput.present (w : CmdWord) : EdgeInput := { rst := false, cmdValid := true, cmdData := w, rdAddr := 0#6 }

/-- The input ports of an edge at which the host asserts `rst` (R35). -/
def EdgeInput.reset : EdgeInput := { rst := true, cmdValid := false, cmdData := 0#64, rdAddr := 0#6 }

/-- The input ports at the coming edge; past the end of `inputs` the host does nothing (log 4). -/
def edgeNow (s : State) : EdgeInput := s.inputs.headD EdgeInput.quiet

/-- The state with the coming edge's inputs taken off. -/
def afterInputs (s : State) : State := { s with inputs := s.inputs.tail }

/-- `edge()` (R131): reset first, then the faulted state, then a command if the sequencer is idle, else the pending
micro-operation (R203). A block whose parameters break R6 is refused (log 3). -/
def edge (execute : Instr → State → Result) (s : State) : Result :=
  if s.params.valid = false then .refused .parameterSet
  else if (edgeNow s).rst then .next (resetEdge (afterInputs s))
  else if s.ubFault then .fault (.inFaultState (faultedState (afterInputs s)))
  else if s.seq = .idle then
    (if (edgeNow s).cmdValid then execute (decode (edgeNow s).cmdData) (afterInputs s) else .next (afterInputs s))
  else .next (microStep (afterInputs s))

/-- The host presents the word at the very next edge, and the block is ready for it (log 5). -/
def presentNext (s : State) (w : CmdWord) : State :=
  { s with inputs := EdgeInput.present w :: s.inputs, seq := .idle, ubFault := false }

end Sys2Proof.Machine
end

