-- ==== Sys2Proof/Machine/Step.lean ====
section
/-! DEFINITION. The step of the block: one rising edge of `clk` (R20, R131). -/

namespace Sys2Proof.Machine

/-- One rising edge of `clk` (R131). -/
def step (s : State) : Host.Outcome State Fault Refusal := edge exec s

/-- The opcode-table word presented on the command port at the next edge (log 5). -/
def State.withFetchWord (s : State) (nbits w : Nat) : State := presentNext s (BitVec.ofNat 64 (w % 2 ^ nbits))

end Sys2Proof.Machine
end

