-- ==== Sys2Proof/Machine/Assembler.lean ====
section
/-! DEFINITION. The assembler syntax and the pseudo-instructions (R78, R79): from a line of text to its command words. What
R78 does not say of the text itself (blanks, tabs, letter case) is the model's choice (log 16). -/

namespace Sys2Proof.Machine

/-- The opening brace of a symbol list (R78). -/
def openBrace : Char := Char.ofNat 123

/-- The closing brace of a symbol list (R78). -/
def closeBrace : Char := Char.ofNat 125

/-- Ends the word being read, if there is one. -/
def endWord (word : List Char) (rest : List (List Char)) : List (List Char) :=
  if word.isEmpty then rest else word.reverse :: rest

/-- The tokens of a line: words, commas and braces; a `;` starts a comment (R78). The second argument is the word being
read, last character first. -/
def tokens : List Char → List Char → List (List Char)
  | [], word => endWord word []
  | c :: cs, word =>
    if c = ';' then endWord word []
    else if c = ' ' ∨ c = '\t' then endWord word (tokens cs [])
    else if c = ',' ∨ c = openBrace ∨ c = closeBrace then endWord word ([c] :: tokens cs [])
    else tokens cs (c :: word)

/-- The value of a digit character, upper or lower case. -/
def digitValue (c : Char) : Nat :=
  if '0' ≤ c ∧ c ≤ '9' then c.toNat - 48
  else if 'a' ≤ c ∧ c ≤ 'f' then c.toNat - 87
  else if 'A' ≤ c ∧ c ≤ 'F' then c.toNat - 55
  else 99

/-- A number written in a base, one or more digits. -/
def numberIn (base : Nat) (cs : List Char) : Option Nat :=
  if cs.isEmpty ∨ cs.any (fun c => decide (base ≤ digitValue c)) then none
  else some (cs.foldl (fun n c => n * base + digitValue c) 0)

/-- An unsigned number, decimal or `0x` hexadecimal (R78). -/
def unsignedNumber (t : List Char) : Option Nat :=
  match t with
  | '0' :: 'x' :: cs => numberIn 16 cs
  | cs => numberIn 10 cs

/-- A number with an optional minus sign (R78). -/
def signedNumber (t : List Char) : Option Int :=
  match t with
  | '-' :: cs => (unsignedNumber cs).map fun n => -(n : Int)
  | cs => (unsignedNumber cs).map fun n => (n : Int)

/-- An unsigned number below a bound (R78). -/
def below (bound : Nat) (t : List Char) : Option Nat := (unsignedNumber t).filter fun n => decide (n < bound)

/-- The symbol names, written with a `%` (R78). -/
def symbolName (t : List Char) : Option Nat :=
  if t = ['A'] then some 10
  else if t = ['b'] then some 11
  else if t = ['c'] then some 12
  else if t = ['d'] then some 13
  else if t = ['E'] then some 14
  else if t = ['F'] then some 15
  else if t = ['B', 'L', 'A', 'N', 'K'] then some 16
  else if t = ['D', 'A', 'S', 'H'] then some 17
  else match t with
    | [c] => if '0' ≤ c ∧ c ≤ '9' then some (digitValue c) else none
    | _ => none

/-- A symbol operand: 0 to 31, or a name (R78). -/
def symbolOperand (t : List Char) : Option (BitVec 5) :=
  match t with
  | '%' :: cs => (symbolName cs).map (BitVec.ofNat 5)
  | cs => (below 32 cs).map (BitVec.ofNat 5)

/-- The symbols of a list after its opening brace, up to the closing brace that ends the line (R78). -/
def symbolList : List (List Char) → Option (List (BitVec 5))
  | [] => none
  | [t] => if t = [closeBrace] then some [] else none
  | [t, u] => if u = [closeBrace] then (symbolOperand t).map fun x => [x] else none
  | t :: u :: rest =>
    if u = [','] then
      match symbolOperand t, symbolList rest with
      | some x, some xs => if xs.isEmpty then none else some (x :: xs)
      | _, _ => none
    else none

/-- SET_DIGITS from a list of up to eight symbols, missing slots 0 (R78). -/
def setDigitsOf (cnt : Nat) (l : List (BitVec 5)) : Option Instr :=
  if l.length ≤ 8 then
    some (.setDigits (BitVec.ofNat 4 cnt) (l.getD 0 0#5) (l.getD 1 0#5) (l.getD 2 0#5) (l.getD 3 0#5) (l.getD 4 0#5)
      (l.getD 5 0#5) (l.getD 6 0#5) (l.getD 7 0#5))
  else none

/-- `blank <n>` is `setdigits <n>` with n times BLANK, at most the eight slots there are (R79, log 16). -/
def blankDigits (n : Nat) : Option Instr := setDigitsOf n (List.replicate (min n 8) 16#5)

/-- `showhex <p>, <v>` is `setdigit <p>, <v & 0xF>`, the digit `v mod 16` (R79, R8). R79 gives `v` no range; that it may be any
integer, a negative one included, is the model's choice (DESIGN CHOICE, log 16). -/
def showHex (p : Nat) (v : Int) : Instr := .setDigit (BitVec.ofNat 4 p) (BitVec.ofInt 5 (v % 16))

/-- `refresh.max` is `refresh.t 65535` (R79). -/
def refreshMax : Instr := .refreshT 65535#16

/-- The names of the polarity operand (R78). -/
def polarityName (t : List Char) : Option Polarity :=
  if t = ['c', 'c'] then some .commonCathode
  else if t = ['c', 'a'] then some .commonAnode
  else if t = ['n', 't', 'r'] then some .nTransistor
  else if t = ['p', 't', 'r'] then some .pTransistor
  else none

/-- The names of the strategy operand (R78). -/
def strategyName (t : List Char) : Option Strategy :=
  if t = ['s', 'w', 'e', 'e', 'p'] then some .sweep
  else if t = ['s', 't', 'e', 'p'] then some .step
  else none

/-- The command of a SET_NUMBER line: the value fits 32 bits, signed or unsigned (R78). -/
def setNumberOf (sgn : Bool) (v d : List Char) : Option Instr :=
  match signedNumber v, below 16 d with
  | some val, some dp =>
    if (Instr.setNumber sgn (BitVec.ofNat 4 dp) val).wf then some (.setNumber sgn (BitVec.ofNat 4 dp) val) else none
  | _, _ => none

/-- A command without operands or with one (R78, R79). -/
def shortLine (m : List Char) (args : List (List Char)) : Option Instr :=
  match args with
  | [] =>
    if m = "nop".toList then some .nop
    else if m = "refresh".toList then some .refresh
    else if m = "refresh.max".toList then some refreshMax
    else if m = "step".toList then some .advanceStep
    else none
  | [a] =>
    if m = "setbright".toList then
      (signedNumber a).bind fun v => if (Instr.setBrightness v).wf then some (.setBrightness v) else none
    else if m = "refresh.t".toList then (below 65536 a).map fun n => .refreshT (BitVec.ofNat 16 n)
    else if m = "blank".toList then (below 16 a).bind blankDigits
    else none
  | _ => none

/-- A command with two operands or more (R78, R79). The value of `showhex` is read as any integer, a minus sign included: R79
gives it no range (DESIGN CHOICE, log 16). -/
def longLine (m : List Char) (args : List (List Char)) : Option Instr :=
  match args with
  | [p, [','], t, [','], d] =>
    if m = "configure".toList then
      match polarityName p, strategyName t, below 16 d with
      | some pol, some strat, some n => some (.configure pol strat (BitVec.ofNat 4 n))
      | _, _, _ => none
    else none
  | [a, [','], b] =>
    if m = "setdigit".toList then
      match below 16 a, symbolOperand b with
      | some p, some y => some (.setDigit (BitVec.ofNat 4 p) y)
      | _, _ => none
    else if m = "setnum.s".toList then setNumberOf true a b
    else if m = "setnum.u".toList then setNumberOf false a b
    else if m = "showhex".toList then
      match below 16 a, signedNumber b with
      | some p, some v => some (showHex p v)
      | _, _ => none
    else none
  | _ => none

/-- A SET_DIGITS line: a count and a list of symbols in braces (R78). -/
def listLine (m : List Char) (args : List (List Char)) : Option Instr :=
  match args with
  | c :: [','] :: b :: rest =>
    if m = "setdigits".toList ∧ b = [openBrace] then
      match below 16 c, symbolList rest with
      | some n, some l => setDigitsOf n l
      | _, _ => none
    else none
  | _ => none

/-- `.word 0x<16 hex digits>`: a raw word (R78). -/
def rawLine (m : List Char) (args : List (List Char)) : Option CmdWord :=
  match args with
  | [('0' :: 'x' :: cs)] =>
    if m = ".word".toList ∧ cs.length = 16 then (numberIn 16 cs).map (BitVec.ofNat 64) else none
  | _ => none

/-- The command words of one line: none is a line R78 does not allow, the empty list a line without a command. -/
def assembleLine (line : List Char) : Option (List CmdWord) :=
  match tokens line [] with
  | [] => some []
  | m :: args =>
    match (shortLine m args).orElse (fun _ => (longLine m args).orElse fun _ => listLine m args), rawLine m args with
    | some i, _ => some [encode i]
    | none, some w => some [w]
    | none, none => none

end Sys2Proof.Machine
end

