-- ==== Sys2Proof/Machine/Flags.lean ====
section
/-! DEFINITION. The status bits. The block has no condition flags (R22, R36): `busy`, and the STATUS word of the read port
that shows `busy`, `cfg_done`, `ub_fault` and the configuration (R36, R40). -/

namespace Sys2Proof.Machine

/-- `seq ≠ IDLE`: the sequencer is running (R32). -/
def sequencerBusy (s : State) : Bool := decide (s.seq ≠ .idle)

/-- The code of the next micro-operation (R32). -/
def Seq.code (q : Seq) : Nat :=
  match q with
  | .idle => 0
  | .segOn => 1
  | .digOn => 2
  | .hold => 3
  | .digOff => 4
  | .segOff => 5
  | .adv => 6

/-- STATUS: [0] `busy`, [1] `cfg_done`, [2] `ub_fault`, [3] `strategy`, [5:4] `polarity`, [6] `dig_on_lvl`,
[7] `seg_on_lvl`, [11:8] `digit_count` (R40). -/
def statusWord (s : State) : RdWord :=
  BitVec.ofNat 32 ((sequencerBusy s).toNat + s.cfgDone.toNat * 2 + s.ubFault.toNat * 4 + s.strategy.bit.toNat * 8
    + s.polarity.code * 16 + s.digOnLvl.toNat * 64 + s.segOnLvl.toNat * 128 + s.digitCount.toNat * 256)

/-- The bit of STATUS that records the fault, and that stays defined in the faulted state (R24, R202, C10). -/
def ubFaultBit : RdWord := 0x4#32

end Sys2Proof.Machine
end

