-- ==== Sys2Proof/Machine/Ports.lean ====
section
/-! DEFINITION. The ports as functions of the state: `busy` and `cmd_ready` (R32, R34), the output lines with their enables
(R31, R130), and the read port (R40). In the faulted state every one of them is a free value but STATUS bit 2 (R202). -/

namespace Sys2Proof.Machine

/-- A free bit of the faulted state, one per output (R202, log 6). -/
def freeOutput (s : State) (slot : Nat) : Bool := (Config.freeBits s.freeCount slot).getLsbD 0

/-- The output `busy` (R31, R32). -/
def busy (s : State) : Bool := if s.ubFault then freeOutput s 64 else sequencerBusy s

/-- The output `cmd_ready = (seq = IDLE) and (rst = 0)` (R34, R220). -/
def cmdReady (s : State) (rst : Bool) : Bool :=
  if rst then false else if s.ubFault then freeOutput s 65 else decide (s.seq = .idle)

/-- `seg_oe[j]`, for j in 0 .. 7 (R130). -/
def segOe (s : State) (j : Nat) : Bool :=
  if s.ubFault then freeOutput s (72 + 4 * j) else s.cfgDone && decide (j < 8)

/-- `dig_oe[i]`, for i in 0 .. MAX_DIGITS-1 (R130). -/
def digOe (s : State) (i : Nat) : Bool :=
  if s.ubFault then freeOutput s (73 + 4 * i)
  else s.cfgDone && decide (i < s.params.maxDigits) && decide (i < s.digitCount.toNat)

/-- `seg_out[j]`: the on level when asserted, its complement otherwise, 0 when not enabled (R130, D40). -/
def segOut (s : State) (j : Nat) : Bool :=
  if s.ubFault then freeOutput s (74 + 4 * j)
  else if segOe s j then (if s.segAct.getLsbD j then s.segOnLvl else !s.segOnLvl) else false

/-- `dig_out[i]` (R130, D40). -/
def digOut (s : State) (i : Nat) : Bool :=
  if s.ubFault then freeOutput s (75 + 4 * i)
  else if digOe s i then (if s.digAct.getLsbD i then s.digOnLvl else !s.digOnLvl) else false

/-- The level of segment line j; none is high-impedance, `Z` (R31, log 12). -/
def segLine (s : State) (j : Nat) : Option Bool := if segOe s j then some (segOut s j) else none

/-- The level of digit line i; none is high-impedance, `Z` (R31, log 12). -/
def digLine (s : State) (i : Nat) : Option Bool := if digOe s i then some (digOut s i) else none

/-- LINES: [7:0] `seg_act`, [8+MAX_DIGITS-1:8] `dig_act` (R40). -/
def linesWord (s : State) : RdWord := BitVec.ofNat 32 (s.segAct.toNat + s.digAct.toNat * 2 ^ 8)

/-- SEQ: [2:0] `seq`, [3] `seq_mode`, [6:4] `cur_seg`, [31:16] `sweep_t` (R40). -/
def seqWord (s : State) : RdWord :=
  BitVec.ofNat 32 (s.seq.code + s.seqMode.bit.toNat * 2 ^ 3 + s.curSeg.toNat * 2 ^ 4 + s.sweepT.toNat * 2 ^ 16)

/-- MASK[i] at address 0x08 + i for i < MAX_DIGITS; any other address reads 0 (R40, R52). -/
def maskWord (s : State) (a : Nat) : RdWord :=
  if 8 ≤ a ∧ a < 8 + s.params.maxDigits then (Memory.read s.mask (a - 8)).setWidth 32 else 0#32

/-- The register map of the read port (R40). -/
def registerWord (s : State) (a : Nat) : RdWord :=
  if a = 0x00 then statusWord s
  else if a = 0x01 then s.onTime.setWidth 32
  else if a = 0x02 then s.skip.setWidth 32
  else if a = 0x03 then s.pos.setWidth 32
  else if a = 0x04 then linesWord s
  else if a = 0x05 then seqWord s
  else if a = 0x06 then s.holdCnt
  else maskWord s a

/-- What the read port shows in the faulted state: free bits, but STATUS bit 2 reads 1 (R202, C10). -/
def faultedWord (s : State) (a : Nat) : RdWord :=
  if a = 0x00 then (Config.freeBits s.freeCount 128).setWidth 32 ||| ubFaultBit
  else (Config.freeBits s.freeCount (128 + a)).setWidth 32

/-- `RdReg(a)`: `rd_data` for the address `a` on `rd_addr`, a function of the state (R40, R9). -/
def rdReg (s : State) (a : BitVec 6) : RdWord :=
  if s.ubFault then faultedWord s a.toNat else registerWord s a.toNat

/-- `rd_data` at the coming edge: the register the host addresses, in the state before the edge (R40). -/
def rdData (s : State) : RdWord := rdReg s (edgeNow s).rdAddr

end Sys2Proof.Machine
end

