-- ==== Sys2Proof/Safety.lean ====
section
/-! DEFINITION. The terms claims are stated in: launch premises and runs (R224, R233), the host's duties (R229), the
invariant of the block between resets, and the states a run reaches. -/

namespace Sys2Proof.Machine

/-! ### Runs -/

/-- The same block with other host inputs to come (R228). -/
def State.withInputs (s : State) (l : List EdgeInput) : State := { s with inputs := l }

/-- `configured(pol, strat, n)`: one edge after that CONFIGURE was accepted from the reset state of a block built with `p`,
the host inputs `l` to come (R224). -/
def configured (p : Params) (pol : Polarity) (strat : Strategy) (n : BitVec 4) (l : List EdgeInput) : State :=
  (configureOnce pol strat n (State.resetWith p)).withInputs l

/-- A quiescent state: idle, and the host neither resets nor presents a command at the coming edge (R233). -/
abbrev quiescent (s : State) : Prop := s.seq = .idle ∧ (edgeNow s).rst = false ∧ (edgeNow s).cmdValid = false

/-- The host does nothing but wait at every coming edge. -/
abbrev quietHost (s : State) : Prop := ∀ e ∈ s.inputs, e.rst = false ∧ e.cmdValid = false

/-- The host's duty to step at a steady cadence (R229 duty 3, R226), kept over the coming inputs `l` (log 17): an ADVANCE_STEP
at the first of them and at every `d`-th after it, no command at any other, and no reset. -/
abbrev steadySteps (d : Nat) (l : List EdgeInput) : Prop :=
  ∀ k, (h : k < l.length) → l[k].rst = false ∧ l[k].cmdValid = decide (k % d = 0) ∧
    (k % d = 0 → decode l[k].cmdData = .advanceStep)

/-- The host does not reset at any coming edge. -/
abbrev noReset (s : State) : Prop := ∀ e ∈ s.inputs, e.rst = false

/-- The host keeps its duty not to re-configure (R229 duty 1): none of the coming edges accepts a CONFIGURE while
`cfg_done = 1`, so the next `k` edges go through without a fault (R202). -/
def runsWithoutFault (k : Nat) (s : State) : Prop := ∃ t, Sys2Proof.core.run k s = .next t

/-- The state an edge leaves, a faulted one included: the hardware goes on after a fault, and reset is the way out (R202,
R222). None where the model refuses. -/
def stateAfter (r : Host.Outcome State Fault Refusal) : Option State :=
  match r with
  | .next t => some t
  | .fault (.reconfigureUndefined t) => some t
  | .fault (.inFaultState t) => some t
  | .refused _ => none

/-- `k` edges of the hardware, faulted states included. -/
def hardwareRun : Nat → State → Option State
  | 0, s => some s
  | k + 1, s => (stateAfter (step s)).bind (hardwareRun k)

/-! ### Command words -/

/-- `OP = w[63:60]` (R70). -/
def opcode (w : CmdWord) : Nat := w.toNat / 2 ^ 60

/-- The bits of `w` its format names, the opcode among them; every other bit is reserved (R71, R74). -/
def formatBits (w : CmdWord) : CmdWord :=
  match opcode w with
  | 1 => 0xF000000000000F07#64
  | 2 => 0xF000000000000F1F#64
  | 3 => 0xFF0000FFFFFFFFFF#64
  | 4 => 0xF00000000000FFFF#64
  | 5 => if w.getLsbD 16 then 0xF00000000001FFFF#64 else 0xF000000000010000#64
  | 7 => 0xF000001FFFFFFFFF#64
  | _ => 0xF000000000000000#64

/-- The commands that write the mask buffer and nothing else (R28, R56). -/
def writesMasks (i : Instr) : Bool :=
  match i with
  | .nop => false
  | .configure _ _ _ => false
  | .setDigit _ _ => true
  | .setDigits _ _ _ _ _ _ _ _ _ => true
  | .setBrightness _ => false
  | .refresh => false
  | .refreshT _ => false
  | .advanceStep => false
  | .setNumber _ _ _ => true
  | .reserved _ => false

/-- CONFIGURE, the one command that can fault (R200). -/
def isConfigure (i : Instr) : Bool :=
  match i with
  | .nop => false
  | .configure _ _ _ => true
  | .setDigit _ _ => false
  | .setDigits _ _ _ _ _ _ _ _ _ => false
  | .setBrightness _ => false
  | .refresh => false
  | .refreshT _ => false
  | .advanceStep => false
  | .setNumber _ _ _ => false
  | .reserved _ => false

/-! ### The invariant -/

/-- The configuration registers agree (R23, R25, R27): no digit before configuration; after it, 1 to `MAX_DIGITS` digits and
the levels of the polarity. -/
abbrev configInv (s : State) : Prop :=
  (s.cfgDone = false → s.digitCount.toNat = 0) ∧
  (s.cfgDone = true → 1 ≤ s.digitCount.toNat ∧ s.digitCount.toNat ≤ s.params.maxDigits ∧
    s.digOnLvl = digOnLevel s.polarity ∧ s.segOnLvl = segOnLevel s.polarity)

/-- The brightness registers are in range at every edge (R29). -/
abbrev brightnessInv (s : State) : Prop :=
  1 ≤ s.onTime.toNat ∧ s.onTime.toNat ≤ s.params.onTimeMax ∧ s.skip.toNat ≤ s.params.skipMax

/-- The mask buffer keeps its canonical form, and every entry that is not declared is blank (R28). -/
abbrev maskInv (s : State) : Prop := Memory.wf s.mask ∧ ∀ c ∈ s.mask, c.1 < s.digitCount.toNat

/-- The sequencer (R132, R134, R135, R139): it runs only in the configured strategy, holds only in a sweep and only with
cycles left, and steps only on a segment phase. -/
abbrev sequencerInv (s : State) : Prop :=
  (s.seq ≠ .idle → s.cfgDone = true ∧ s.seqMode = s.strategy) ∧
  (s.seq ≠ .idle → s.seqMode = .sweep → 1 ≤ s.sweepT.toNat ∧ s.sweepT.toNat ≤ s.params.onTimeMax) ∧
  (s.seq = .hold → s.seqMode = .sweep) ∧
  (s.seq = .adv → s.seqMode = .step) ∧
  (s.seq = .hold ↔ s.holdCnt ≠ 0#32) ∧
  (s.seq = .idle ∨ s.strategy = .step → s.curSeg = 0#3) ∧
  (s.seq ≠ .idle → s.seq ≠ .adv → s.seqMode = .step → s.pos.toNat < 8) ∧
  s.pos.toNat < 8 + s.params.skipMax

/-- The lines, micro-operation by micro-operation (R145 to R149). -/
abbrev lineInv (s : State) : Prop :=
  (s.seq = .idle → s.strategy = .sweep → s.segAct = 0#8 ∧ s.digAct = 0#8) ∧
  (s.seq = .idle → s.strategy = .step →
    (s.segAct = 0#8 ∧ s.digAct = 0#8 ∧ (s.pos = 0#9 ∨ 8 ≤ s.pos.toNat)) ∨
      (s.pos.toNat < 8 ∧ s.segAct = lineBit s.pos.toNat)) ∧
  (s.seq = .segOn → s.segAct = 0#8 ∧ s.digAct = 0#8) ∧
  (s.seq = .digOn → s.segAct = lineBit (phase s) ∧ s.digAct = 0#8) ∧
  (s.seq = .hold → s.segAct = lineBit (phase s) ∧ s.digAct = litDigits s) ∧
  (s.seq = .digOff → s.seqMode = .sweep → s.segAct = lineBit (phase s) ∧ s.digAct = litDigits s) ∧
  (s.seq = .digOff → s.seqMode = .step → (s.segAct = 0#8 ∧ s.digAct = 0#8) ∨ s.segAct = lineBit (phase s)) ∧
  (s.seq = .segOff → s.digAct = 0#8 ∧ (s.segAct = lineBit (phase s) ∨ (s.seqMode = .step ∧ s.segAct = 0#8))) ∧
  (s.seq = .adv → s.segAct = 0#8 ∧ s.digAct = 0#8) ∧
  (∀ i < 8, s.digitCount.toNat ≤ i → s.digAct.getLsbD i = false)

/-- The invariant of the block outside the faulted state: what holds after reset and every edge keeps. -/
abbrev State.Inv (s : State) : Prop :=
  s.params.valid = true ∧ s.ubFault = false ∧ configInv s ∧ brightnessInv s ∧ maskInv s ∧ sequencerInv s ∧ lineInv s

/-! ### Reachable states -/

/-- The states a block reaches: from the reset state of any allowed build, under any host inputs, through edges that do not
fault (R221, R228, R233). -/
inductive Reachable : State → Prop where
  /-- The block right after a reset edge. -/
  | start (p : Params) (h : p.valid = true) (l : List EdgeInput) (n : Nat) :
      Reachable { State.resetWith p with inputs := l, freeCount := n }
  /-- One rising edge further. -/
  | edge (s t : State) (h : Reachable s) (e : step s = .next t) : Reachable t

end Sys2Proof.Machine
end

