-- ==== Sys2Proof/Certificates/Slice0/Obligations.lean ====
section
/-! DEFINITION. The statements for the provers, from the numbered rules of the spec. Each docstring names the rules it
formalises. They are claims about the machine under every build parameter set and every host input. -/

open Sys2Proof Sys2Proof.Machine

/-! ### The command words (30_encoding.md) -/

/-- R77, R80: decoding the encoding of a well-formed command gives the command back, every operand included. For the reserved
opcodes this rests on the command and the encoding the model chose for them (log 13): R77 decodes such a word to NOP, and R80 gives
it no encoding. -/
def Obligations.DecodeOfEncodeIsTheCommand : Prop :=
  ∀ i : Instr, i.wf → decode (encode i) = i

/-- R75, R77: no word is illegal; every word decodes to a command whose operands are in the ranges of R73. That a reserved opcode
decodes to a command of its own, which carries the opcode, is the model's choice (log 13): R77 decodes it to NOP, and
`DecoderReadsEachFieldAtItsPlace` says that it executes as NOP. -/
def Obligations.EveryWordIsAWellFormedCommand : Prop :=
  ∀ w : CmdWord, (decode w).wf ∧ (8 ≤ opcode w → ∃ op, decode w = .reserved op ∧ op.toNat = opcode w)

/-- R74: a word that differs from another only in reserved bits decodes and executes identically. -/
def Obligations.ReservedBitsAreIgnored : Prop :=
  ∀ w w' : CmdWord, w &&& formatBits w = w' &&& formatBits w →
    decode w = decode w' ∧ ∀ s, exec (decode w) s = exec (decode w') s

/-- R72, R73, R77: the decoder, field by field and on every word. Each field is the number its bits are, but the brightness
operand and a signed number, which are the two's complement readings. A word with a reserved opcode executes as NOP. -/
def Obligations.DecoderReadsEachFieldAtItsPlace : Prop :=
  ∀ w : CmdWord,
    (opcode w = 0 → decode w = .nop) ∧
    (opcode w = 1 → ∃ pol strat dcnt, decode w = .configure pol strat dcnt ∧
      pol.code = w.toNat % 4 ∧ strat.bit = w.getLsbD 2 ∧ dcnt.toNat = w.toNat / 2 ^ 8 % 16) ∧
    (opcode w = 2 → ∃ pos sym, decode w = .setDigit pos sym ∧
      pos.toNat = w.toNat / 2 ^ 8 % 16 ∧ sym.toNat = w.toNat % 32) ∧
    (opcode w = 3 → ∃ cnt y0 y1 y2 y3 y4 y5 y6 y7, decode w = .setDigits cnt y0 y1 y2 y3 y4 y5 y6 y7 ∧
      cnt.toNat = w.toNat / 2 ^ 56 % 16 ∧
      ∀ (k : Nat) (y : BitVec 5), [y0, y1, y2, y3, y4, y5, y6, y7][k]? = some y → y.toNat = w.toNat / 2 ^ (5 * k) % 32) ∧
    (opcode w = 4 → ∃ val, decode w = .setBrightness val ∧
      val = (if w.getLsbD 15 = true then (w.toNat % 2 ^ 16 : Int) - 2 ^ 16 else (w.toNat % 2 ^ 16 : Int))) ∧
    (opcode w = 5 → w.getLsbD 16 = false → decode w = .refresh) ∧
    (opcode w = 5 → w.getLsbD 16 = true → ∃ ot, decode w = .refreshT ot ∧ ot.toNat = w.toNat % 2 ^ 16) ∧
    (opcode w = 6 → decode w = .advanceStep) ∧
    (opcode w = 7 → ∃ dp val, decode w = .setNumber (w.getLsbD 36) dp val ∧ dp.toNat = w.toNat / 2 ^ 32 % 16 ∧
      val = (if w.getLsbD 36 = true ∧ w.getLsbD 31 = true then (w.toNat % 2 ^ 32 : Int) - 2 ^ 32
        else (w.toNat % 2 ^ 32 : Int))) ∧
    (8 ≤ opcode w → ∀ s, exec (decode w) s = exec .nop s)

/-- R80: the encoding function, command by command, and that it inverts the decoder on every word of a named opcode whose
reserved bits are 0. (The word of a reserved opcode is the model's choice, log 13; `EncodeOfDecodeClearsOnlyReservedBits` says
it.) -/
def Obligations.EncodingFunctionInvertsTheDecoder : Prop :=
  (∀ pol strat dcnt, (encode (.configure pol strat dcnt)).toNat =
    0x1 * 2 ^ 60 + dcnt.toNat * 2 ^ 8 + strat.bit.toNat * 2 ^ 2 + pol.code) ∧
  (∀ pos sym, (encode (.setDigit pos sym)).toNat = 0x2 * 2 ^ 60 + pos.toNat * 2 ^ 8 + sym.toNat) ∧
  (∀ cnt y0 y1 y2 y3 y4 y5 y6 y7, (encode (.setDigits cnt y0 y1 y2 y3 y4 y5 y6 y7)).toNat =
    0x3 * 2 ^ 60 + cnt.toNat * 2 ^ 56 +
      ∑ k : Fin 8, ([y0, y1, y2, y3, y4, y5, y6, y7].getD k.val 0#5).toNat * 2 ^ (5 * k.val)) ∧
  (∀ val, ((encode (.setBrightness val)).toNat : Int) = 0x4 * 2 ^ 60 + val % 2 ^ 16) ∧
  (encode .refresh).toNat = 0x5 * 2 ^ 60 ∧
  (∀ ot, (encode (.refreshT ot)).toNat = 0x5 * 2 ^ 60 + 1 * 2 ^ 16 + ot.toNat) ∧
  (encode .advanceStep).toNat = 0x6 * 2 ^ 60 ∧
  (∀ sgn dp val, ((encode (.setNumber sgn dp val)).toNat : Int) =
    0x7 * 2 ^ 60 + sgn.toNat * 2 ^ 36 + dp.toNat * 2 ^ 32 + val % 2 ^ 32) ∧
  (encode .nop).toNat = 0 ∧
  ∀ w : CmdWord, opcode w < 8 → w &&& formatBits w = w → encode (decode w) = w

/-- R71, R74: encoding the decoding of any word gives the word back with its reserved bits 0: every bit a format names is
read, at its place, and no other. For the reserved opcodes this rests on the encoding the model chose for them (log 13). -/
def Obligations.EncodeOfDecodeClearsOnlyReservedBits : Prop :=
  ∀ w : CmdWord, encode (decode w) = w &&& formatBits w

/-- R77, on one word for each row of the opcode table, written out in the spec: in its decoder vectors (95_test_vectors.md V1), and
for SET_DIGIT in the example of R80 and R110. That the word of the reserved opcode decodes to a command of its own, where V1 says
NOP, is the model's choice (log 13). -/
def Obligations.SpecWordsDecode : Prop :=
  decode 0x0FFFFFFFFFFFFFFF#64 = .nop ∧
  decode 0x1000000000000F07#64 = .configure .pTransistor .step 15#4 ∧
  decode 0x2000000000000207#64 = .setDigit 2#4 7#5 ∧
  decode 0x380000398A418820#64 = .setDigits 8#4 0#5 1#5 2#5 3#5 4#5 5#5 6#5 7#5 ∧
  decode 0x4FFFFFFFFFFF8000#64 = .setBrightness (-32768) ∧
  decode 0x5FFFFFFFFFFEFFFF#64 = .refresh ∧
  decode 0x500000000001FFFF#64 = .refreshT 65535#16 ∧
  decode 0x6FFFFFFFFFFFFFFF#64 = .advanceStep ∧
  decode 0x70000011FFFFFFFF#64 = .setNumber true 1#4 (-1) ∧
  decode 0xF123456789ABCDEF#64 = .reserved 0xF#4

/-- R78 to R80: lines of the spec's programs assemble to the words the spec prints beside them; the text of a line beyond
R78 is the model's choice (log 16). -/
def Obligations.SpecLinesAssemble : Prop :=
  assembleLine "configure ca, sweep, 4".toList = some [0x1000000000000401#64] ∧
  assembleLine "setdigit 2, %7".toList = some [0x2000000000000207#64] ∧
  assembleLine "setbright -5".toList = some [0x400000000000FFFB#64] ∧
  assembleLine "setnum.s -5, 2".toList = some [0x70000012FFFFFFFB#64] ∧
  assembleLine "refresh.t 0".toList = some [0x5000000000010000#64] ∧
  assembleLine "blank 4".toList = some [0x3400000000084210#64]

/-! ### The step (41_multiplex.md R131, 10_state.md, 70_reset_and_hazards.md) -/

/-- R131: a step runs the decoded command. When the block is built from an allowed parameter set, is not in the faulted state,
is idle, and the host presents a word without reset, the edge is `exec` of the decoded word at the state with that edge's
inputs taken off (that the coming inputs stand in State is the model's choice, log 4). -/
def Obligations.StepRunsTheDecodedCommand : Prop :=
  ∀ (s : State) (e : EdgeInput) (l : List EdgeInput), s.params.valid = true → s.inputs = e :: l → e.rst = false →
    s.ubFault = false → s.seq = .idle → e.cmdValid = true →
    step s = exec (decode e.cmdData) { s with inputs := l }

/-- R131: what an edge does is chosen in this order: reset, then the faulted state, then a command of an idle block, else the
pending micro-operation, each of which the statements below say the effect of. That an edge of the faulted state is a fault of its
own is the model's choice (log 8): R131 leaves its next state unspecified. -/
def Obligations.EdgeChoosesInOrder : Prop :=
  ∀ s : State, s.params.valid = true →
    ((edgeNow s).rst = true → step s = .next (resetEdge { s with inputs := s.inputs.tail })) ∧
    ((edgeNow s).rst = false → s.ubFault = true → ∃ a, step s = .fault (.inFaultState a)) ∧
    ((edgeNow s).rst = false → s.ubFault = false →
      (s.seq = .idle → (edgeNow s).cmdValid = true →
        step s = exec (decode (edgeNow s).cmdData) { s with inputs := s.inputs.tail }) ∧
      (s.seq = .idle → (edgeNow s).cmdValid = false → step s = .next { s with inputs := s.inputs.tail }) ∧
      (s.seq = .segOn → step s = .next (segOnOp { s with inputs := s.inputs.tail })) ∧
      (s.seq = .digOn → step s = .next (digOnOp { s with inputs := s.inputs.tail })) ∧
      (s.seq = .hold → step s = .next (holdOp { s with inputs := s.inputs.tail })) ∧
      (s.seq = .digOff → step s = .next (digOffOp { s with inputs := s.inputs.tail })) ∧
      (s.seq = .segOff → step s = .next (segOffOp { s with inputs := s.inputs.tail })) ∧
      (s.seq = .adv → step s = .next (advOp { s with inputs := s.inputs.tail })))

/-- R42: at an edge with `rst = 1` every state element takes its reset value; afterwards every output enable is 0, `busy` is
0, and `cmd_ready` is 1 once `rst` returns to 0. R220: `cmd_ready` is 0 while `rst = 1`, said outside the faulted state, where R202
leaves every output unspecified (log 6). -/
def Obligations.ResetLoadsEveryRegister : Prop :=
  ∀ s : State, s.params.valid = true → (edgeNow s).rst = true →
    (s.ubFault = false → cmdReady s true = false) ∧
    ∃ t, step s = .next t ∧
      t.cfgDone = false ∧ t.ubFault = false ∧ t.polarity = .commonCathode ∧ t.digOnLvl = false ∧ t.segOnLvl = false ∧
      t.strategy = .sweep ∧ t.digitCount.toNat = 0 ∧ (∀ i, Memory.read t.mask i = 0x00#8) ∧
      t.onTime.toNat = s.params.onTimeMax ∧ t.skip.toNat = 0 ∧ t.pos.toNat = 0 ∧
      t.seq = .idle ∧ t.seqMode = .sweep ∧ t.curSeg.toNat = 0 ∧ t.holdCnt.toNat = 0 ∧ t.sweepT.toNat = 0 ∧
      t.segAct = 0#8 ∧ t.digAct = 0#8 ∧ t.params = s.params ∧
      (∀ j, segLine t j = none) ∧ (∀ i, digLine t i = none) ∧ busy t = false ∧ cmdReady t false = true

/-- R34: a command presented while the block is busy is not accepted and has no effect: whatever stands on the command port,
the edge is the same, in every state with `seq ≠ IDLE`. -/
def Obligations.BusyBlockIgnoresTheCommandPort : Prop :=
  ∀ (s : State) (e : EdgeInput) (l : List EdgeInput) (v : Bool) (w : CmdWord), s.seq ≠ .idle →
    step (s.withInputs ({ e with cmdValid := v, cmdData := w } :: l)) = step (s.withInputs (e :: l))

/-- R11, R200, R202: an edge faults exactly when the block is in the faulted state, or accepts a CONFIGURE while
`cfg_done = 1`, and reset is not asserted. That an edge of the faulted state is a fault of its own is the model's choice
(log 8). -/
def Obligations.OnlyReconfigurationFaults : Prop :=
  ∀ s : State, s.params.valid = true →
    ((∃ r, step s = .fault r) ↔
      (edgeNow s).rst = false ∧
        (s.ubFault = true ∨
          (s.seq = .idle ∧ (edgeNow s).cmdValid = true ∧ opcode (edgeNow s).cmdData = 1 ∧ s.cfgDone = true)))

/-- R6: a model refuses a parameter set that breaks a constraint, and refuses nothing else. -/
def Obligations.ExactlyBadParameterSetsAreRefused : Prop :=
  ∀ s : State,
    (∃ r, step s = .refused r) ↔
      ¬(1 ≤ s.params.maxDigits ∧ s.params.maxDigits ≤ 8 ∧ 1 ≤ s.params.onTimeMax ∧ s.params.onTimeMax ≤ 65535 ∧
        s.params.skipMax ≤ 255 ∧ 1 ≤ s.params.cyclesPerUs ∧ s.params.onTimeMax * s.params.cyclesPerUs ≤ 2 ^ 32 ∧
        s.params.symbolTable.length = 18 ∧ s.params.symbolTable[0]? = some 0x3F#8 ∧
        s.params.symbolTable[16]? = some 0x00#8 ∧ s.params.symbolTable[17]? = some 0x40#8 ∧
        ∀ m ∈ s.params.symbolTable, m.getLsbD 7 = false)

/-! ### The invariant and what follows from it (R145 to R149, R29) -/

/-- The invariant holds in the reset state of every allowed build, under any host inputs. The parameter values of
`State.reset` are the model's choice where the spec leaves them OPEN (log 2). -/
def Obligations.ResetStateMeetsTheInvariant : Prop :=
  State.reset.Inv ∧
  ∀ (p : Params) (l : List EdgeInput) (n : Nat), p.valid = true →
    State.Inv { State.resetWith p with inputs := l, freeCount := n }

/-- Every edge keeps the invariant, from every state that meets it. -/
def Obligations.StepKeepsTheInvariant : Prop :=
  ∀ s t : State, s.Inv → step s = .next t → t.Inv

/-- Every state a run reaches meets the invariant. -/
def Obligations.ReachableStatesMeetTheInvariant : Prop :=
  ∀ s : State, Reachable s → s.Inv

/-- R145: at most one segment line is asserted in every reachable state with `ub_fault = 0`. -/
def Obligations.AtMostOneSegmentLine : Prop :=
  ∀ s : State, Reachable s → s.ubFault = false →
    ∀ j k : Nat, s.segAct.getLsbD j = true → s.segAct.getLsbD k = true → j = k

/-- R146: at every SEG_ON edge no digit line is asserted. -/
def Obligations.DigitsAreOffBeforeASegmentGoesOn : Prop :=
  ∀ s : State, Reachable s → s.seq = .segOn → s.digAct = 0#8

/-- R147: an undeclared digit line is never asserted. -/
def Obligations.UndeclaredDigitsAreNeverAsserted : Prop :=
  ∀ s : State, Reachable s → ∀ i : Nat, s.digitCount.toNat ≤ i → s.digAct.getLsbD i = false

/-- R148: in SWEEP mode every line is de-asserted whenever the sequencer is idle. -/
def Obligations.SweepModeIsDarkWhenIdle : Prop :=
  ∀ s : State, Reachable s → s.strategy = .sweep → s.seq = .idle → s.segAct = 0#8 ∧ s.digAct = 0#8

/-- R149, the part that needs no history: in STEP mode, whenever the sequencer is idle, a dark phase has every line off, and
otherwise every line is off or exactly segment line `pos` is on. -/
def Obligations.StepModeShowsItsPhaseWhenIdle : Prop :=
  ∀ s : State, Reachable s → s.strategy = .step → s.seq = .idle →
    (8 ≤ s.pos.toNat → s.segAct = 0#8 ∧ s.digAct = 0#8) ∧
    (s.pos.toNat < 8 → (s.segAct = 0#8 ∧ s.digAct = 0#8 ∧ s.pos.toNat = 0) ∨
      ∀ j < 8, s.segAct.getLsbD j = decide (j = s.pos.toNat))

/-- R29: the brightness registers are in range at every edge. -/
def Obligations.BrightnessRegistersStayInRange : Prop :=
  ∀ s : State, Reachable s → 1 ≤ s.onTime.toNat ∧ s.onTime.toNat ≤ s.params.onTimeMax ∧ s.skip.toNat ≤ s.params.skipMax

/-- R185, R23: until a CONFIGURE is accepted the block stays in its reset state, edge by edge, whatever else the host does. -/
def Obligations.UnconfiguredBlockStaysInReset : Prop :=
  ∀ s t : State, (s.cfgDone = false → s = resetEdge s) → step s = .next t → t.cfgDone = false → t = resetEdge t

/-! ### Whole-machine rules: who writes what (R23 to R30) -/

/-- R28, R50: the mask buffer is written only by CONFIGURE, SET_DIGIT, SET_DIGITS and SET_NUMBER, and by reset. -/
def Obligations.OnlyMaskCommandsWriteTheMasks : Prop :=
  ∀ (s t : State) (a : Nat), step s = .next t → Memory.read t.mask a ≠ Memory.read s.mask a →
    (edgeNow s).rst = true ∨
      (s.seq = .idle ∧ (edgeNow s).cmdValid = true ∧
        (isConfigure (decode (edgeNow s).cmdData) = true ∨ writesMasks (decode (edgeNow s).cmdData) = true))

/-- R23, R25, R26, R27: once set, the configuration is changed by no edge but a reset. -/
def Obligations.ConfigurationIsImmutable : Prop :=
  ∀ s t : State, s.cfgDone = true → (edgeNow s).rst = false → step s = .next t →
    t.cfgDone = true ∧ t.polarity = s.polarity ∧ t.digOnLvl = s.digOnLvl ∧ t.segOnLvl = s.segOnLvl ∧
      t.strategy = s.strategy ∧ t.digitCount = s.digitCount ∧ t.ubFault = false

/-- R29: the brightness registers are written only by SET_BRIGHTNESS on a configured block, and by reset. -/
def Obligations.OnlySetBrightnessWritesBrightness : Prop :=
  ∀ s t : State, step s = .next t → (edgeNow s).rst = false → (t.onTime ≠ s.onTime ∨ t.skip ≠ s.skip) →
    s.seq = .idle ∧ (edgeNow s).cmdValid = true ∧ opcode (edgeNow s).cmdData = 4 ∧ s.cfgDone = true

/-- R6, R11: no edge changes the build parameters. The other two clauses are about the model's own fields: an edge takes the inputs
of one edge off the list of coming inputs (log 4), and an edge that answers a next state leaves the count of undefined events as it
was (log 7). -/
def Obligations.ParametersNeverChange : Prop :=
  ∀ s t : State, step s = .next t → t.params = s.params ∧ t.inputs = s.inputs.tail ∧ t.freeCount = s.freeCount

/-- R28, R131: the frame of the sequencer. A micro-operation changes the sequencer and line registers, and `pos` only in ADV,
and nothing else: not the masks, the configuration or the brightness. -/
def Obligations.SequencerFrame : Prop :=
  ∀ s : State, s.params.valid = true → s.ubFault = false → (edgeNow s).rst = false → s.seq ≠ .idle →
    ∃ t, step s = .next t ∧
      t = { s with seq := t.seq, curSeg := t.curSeg, holdCnt := t.holdCnt, segAct := t.segAct, digAct := t.digAct,
                   pos := t.pos, inputs := s.inputs.tail } ∧
      (s.seq ≠ .adv → t.pos = s.pos) ∧ (∀ a, Memory.read t.mask a = Memory.read s.mask a)

/-! ### CONFIGURE, NOP and the fault (43_control.md, 60_exceptions.md) -/

/-- R184, R183: NOP and the reserved opcodes are accepted and write no state. -/
def Obligations.ReservedOpcodesExecuteAsNop : Prop :=
  ∀ s : State, exec .nop s = .next s ∧ (∀ op, exec (.reserved op) s = .next s) ∧
    ∀ w : CmdWord, 8 ≤ opcode w → exec (decode w) s = .next s

/-- R185: while `cfg_done = 0` every command but CONFIGURE is accepted and does nothing. -/
def Obligations.CommandsBeforeConfigurationDoNothing : Prop :=
  ∀ (i : Instr) (s : State), s.cfgDone = false → isConfigure i = false → exec i s = .next s

/-- R180: the first CONFIGURE sets the configuration, blanks every mask, de-asserts every line and sets `pos` to 0, and
changes nothing else. -/
def Obligations.FirstConfigureSetsTheConfiguration : Prop :=
  ∀ (s : State) (pol : Polarity) (strat : Strategy) (dcnt : BitVec 4),
    s.params.valid = true → Memory.wf s.mask → s.cfgDone = false →
    ∃ t, exec (.configure pol strat dcnt) s = .next t ∧
      t.digitCount.toNat = max 1 (min dcnt.toNat s.params.maxDigits) ∧ t.polarity = pol ∧ t.digOnLvl = digOnLevel pol ∧
      t.segOnLvl = segOnLevel pol ∧ t.strategy = strat ∧
      (∀ i < s.params.maxDigits, Memory.read t.mask i = 0x00#8) ∧
      (∀ i, s.params.maxDigits ≤ i → Memory.read t.mask i = Memory.read s.mask i) ∧
      t.segAct = 0#8 ∧ t.digAct = 0#8 ∧ t.pos.toNat = 0 ∧ t.cfgDone = true ∧
      t = { s with digitCount := t.digitCount, polarity := t.polarity, digOnLvl := t.digOnLvl, segOnLvl := t.segOnLvl,
                   strategy := t.strategy, mask := t.mask, segAct := t.segAct, digAct := t.digAct, pos := t.pos,
                   cfgDone := t.cfgDone }

/-- The levels each polarity gives, by a first CONFIGURE, and that they are four distinct combinations. The CommonAnode row is
the source's; which of the other three rows belongs to which mode is the spec's own decision (D12, marked 'from general
knowledge, not in source' in the table of 43_control.md; log 15). -/
def Obligations.PolarityFixesTheLevels : Prop :=
  (∀ (s : State) (pol : Polarity) (strat : Strategy) (dcnt : BitVec 4), s.cfgDone = false →
    ∃ t, exec (.configure pol strat dcnt) s = .next t ∧
      (pol = .commonCathode → t.digOnLvl = false ∧ t.segOnLvl = true) ∧
      (pol = .commonAnode → t.digOnLvl = true ∧ t.segOnLvl = false) ∧
      (pol = .nTransistor → t.digOnLvl = true ∧ t.segOnLvl = true) ∧
      (pol = .pTransistor → t.digOnLvl = false ∧ t.segOnLvl = false)) ∧
  ∀ p q : Polarity, digOnLevel p = digOnLevel q → segOnLevel p = segOnLevel q → p = q

/-- R180, R130: after the first CONFIGURE every declared line is an output at its off level and every undeclared digit line
is high-impedance. -/
def Obligations.ConfigureDrivesDeclaredLinesOff : Prop :=
  ∀ (s : State) (pol : Polarity) (strat : Strategy) (dcnt : BitVec 4),
    s.params.valid = true → s.ubFault = false → s.cfgDone = false →
    ∃ t, exec (.configure pol strat dcnt) s = .next t ∧
      (∀ j < 8, segLine t j = some (!t.segOnLvl)) ∧
      (∀ i < t.digitCount.toNat, digLine t i = some (!t.digOnLvl)) ∧
      (∀ i, t.digitCount.toNat ≤ i → digLine t i = none)

/-- R181, R202: a CONFIGURE accepted while `cfg_done = 1` raises `ReconfigureUndefined`: a fault, whatever its operands, that
leaves `ub_fault = 1` and STATUS bit 2 reading 1. -/
def Obligations.SecondConfigureRaisesTheFault : Prop :=
  ∀ (s : State) (pol : Polarity) (strat : Strategy) (dcnt : BitVec 4), s.cfgDone = true →
    ∃ a, exec (.configure pol strat dcnt) s = .fault (.reconfigureUndefined a) ∧ a.ubFault = true ∧
      (rdReg a 0x00#6).getLsbD 2 = true ∧ a.params = s.params

/-- R202, R222, R24: the faulted state lasts until reset. Until then every edge faults and leaves `ub_fault` at 1, STATUS bit 2
reads 1, and a reset edge leaves the reset state with `ub_fault` and `cfg_done` 0. That such an edge is a fault of its own is the
model's choice (log 8). -/
def Obligations.FaultLastsUntilReset : Prop :=
  ∀ s : State, s.params.valid = true → s.ubFault = true →
    (rdReg s 0x00#6).getLsbD 2 = true ∧
    ((edgeNow s).rst = false →
      ∃ a, step s = .fault (.inFaultState a) ∧ a.ubFault = true ∧ (rdReg a 0x00#6).getLsbD 2 = true) ∧
    ((edgeNow s).rst = true → ∃ t, step s = .next t ∧ t.ubFault = false ∧ t.cfgDone = false ∧ t.Inv)

/-! ### The symbol encoder (40_encoder.md) -/

/-- R110: SET_DIGIT writes the symbol's mask at one declared position; an undeclared position, an invalid symbol or an
unconfigured block leave everything as it was. Every other register and every other position keeps its value. -/
def Obligations.SetDigitWritesOneDeclaredPosition : Prop :=
  ∀ (s : State) (pos : BitVec 4) (sym : BitVec 5), Memory.wf s.mask →
    ∃ t, exec (.setDigit pos sym) s = .next t ∧
      (s.cfgDone = true ∧ pos.toNat < s.digitCount.toNat ∧ sym.toNat ≤ 17 →
        Memory.read t.mask pos.toNat = s.params.sym sym.toNat) ∧
      (¬(s.cfgDone = true ∧ pos.toNat < s.digitCount.toNat ∧ sym.toNat ≤ 17) → t = s) ∧
      (∀ a, a ≠ pos.toNat → Memory.read t.mask a = Memory.read s.mask a) ∧
      t = { s with mask := t.mask }

/-- R112, R113: SET_DIGITS is all or nothing on its length; each active lane then writes its own position if its symbol is
valid. Every other register and position keeps its value. -/
def Obligations.SetDigitsIsAllOrNothingOnItsLength : Prop :=
  ∀ (s : State) (cnt : BitVec 4) (y0 y1 y2 y3 y4 y5 y6 y7 : BitVec 5),
    Memory.wf s.mask → s.digitCount.toNat ≤ 8 →
    ∃ t, exec (.setDigits cnt y0 y1 y2 y3 y4 y5 y6 y7) s = .next t ∧
      (s.cfgDone = true → cnt.toNat ≤ s.digitCount.toNat →
        ∀ (k : Nat) (y : BitVec 5), [y0, y1, y2, y3, y4, y5, y6, y7][k]? = some y → k < cnt.toNat →
          Memory.read t.mask k = if y.toNat ≤ 17 then s.params.sym y.toNat else Memory.read s.mask k) ∧
      (s.cfgDone = false ∨ s.digitCount.toNat < cnt.toNat → t = s) ∧
      (∀ a, cnt.toNat ≤ a → Memory.read t.mask a = Memory.read s.mask a) ∧
      t = { s with mask := t.mask }

/-- R116: `digits10` is the base-10 digits, most significant first, without leading zeros, and `[0]` for 0. -/
def Obligations.DecimalDigitsMostSignificantFirst : Prop :=
  digits10 0 = [0] ∧
  ∀ m : Nat, 0 < m →
    digits10 m = (Nat.digits 10 m).reverse ∧
    digits10 m = ((List.range (Nat.log 10 m + 1)).reverse).map fun j => m / 10 ^ j % 10

/-- R115, R117, R118: what SET_NUMBER shows. Place j counts from the right. A value that fits shows its decimal digits
right-justified, with leading zeros only down to the units place, the point on the units place, the minus sign directly left
of the digits, and BLANK elsewhere; a value that does not fit shows DASH at every declared position. Undeclared positions and
every other register keep their values. Where the command is not built, or before configuration, it does nothing. -/
def Obligations.SetNumberShowsTheDecimalReading : Prop :=
  ∀ (s : State) (sgn : Bool) (dp : BitVec 4) (val : Int), s.Inv → wfNumber sgn val →
    (s.params.hasSetNumber = false ∨ s.cfgDone = false → exec (.setNumber sgn dp val) s = .next s) ∧
    (s.params.hasSetNumber = true → s.cfgDone = true →
      ∃ t, exec (.setNumber sgn dp val) s = .next t ∧ t = { s with mask := t.mask } ∧
        (∀ a, s.digitCount.toNat ≤ a → Memory.read t.mask a = Memory.read s.mask a) ∧
        (¬(val.natAbs < 10 ^ (s.digitCount.toNat - (if val < 0 then 1 else 0)) ∧
            dp.toNat + 1 + (if val < 0 then 1 else 0) ≤ s.digitCount.toNat) →
          ∀ i < s.digitCount.toNat, Memory.read t.mask i = 0x40#8) ∧
        (val.natAbs < 10 ^ (s.digitCount.toNat - (if val < 0 then 1 else 0)) ∧
            dp.toNat + 1 + (if val < 0 then 1 else 0) ≤ s.digitCount.toNat →
          ∀ j < s.digitCount.toNat, Memory.read t.mask (s.digitCount.toNat - 1 - j) =
            if j ≤ dp.toNat ∨ 10 ^ j ≤ val.natAbs then
              s.params.sym (val.natAbs / 10 ^ j % 10) ||| (if 0 < dp.toNat ∧ j = dp.toNat then 0x80#8 else 0x00#8)
            else if val < 0 ∧ (j ≤ dp.toNat + 1 ∨ 10 ^ (j - 1) ≤ val.natAbs) then 0x40#8
            else 0x00#8))

/-- R115, D34: where SET_NUMBER is not built it is a NOP. -/
def Obligations.SetNumberNotBuiltIsNop : Prop :=
  ∀ (s : State) (sgn : Bool) (dp : BitVec 4) (val : Int), s.params.hasSetNumber = false →
    exec (.setNumber sgn dp val) s = .next s

/-- R56: a command that writes masks changes no output line, no register of the sequencer and not `busy`. -/
def Obligations.MaskWritesLeaveTheLinesAlone : Prop :=
  ∀ (i : Instr) (s t : State), writesMasks i = true → exec i s = .next t →
    (∀ j, segLine t j = segLine s j) ∧ (∀ k, digLine t k = digLine s k) ∧ busy t = busy s ∧ t = { s with mask := t.mask }

/-! ### Brightness (42_brightness.md) -/

/-- R160, R161, R162: SET_BRIGHTNESS writes the register of the configured strategy with the mapped, clamped value, and
nothing else; before configuration it writes nothing. -/
def Obligations.SetBrightnessWritesTheMappedValue : Prop :=
  ∀ (s : State) (val : Int), s.params.valid = true →
    ∃ t, exec (.setBrightness val) s = .next t ∧
      (s.cfgDone = false → t = s) ∧
      (s.cfgDone = true → s.strategy = .sweep →
        (t.onTime.toNat : Int) = 1 + (max 0 (min val 100) * ((s.params.onTimeMax : Int) - 1)) / 100 ∧
          t = { s with onTime := t.onTime }) ∧
      (s.cfgDone = true → s.strategy = .step →
        (t.skip.toNat : Int) = ((255 - max 0 (min val 255)) * (s.params.skipMax : Int)) / 255 ∧
          t = { s with skip := t.skip })

/-- R163: the two maps are bounded and monotonic, in the direction the source requires, for every allowed parameter set; they
are not strictly monotonic where the register has fewer values than the brightness. -/
def Obligations.BrightnessMapsAreBoundedAndMonotonic : Prop :=
  ∀ p : Params, p.valid = true →
    (∀ v : Int, 1 ≤ mapOnTime p v ∧ mapOnTime p v ≤ p.onTimeMax ∧ 0 ≤ mapSkip p v ∧ mapSkip p v ≤ p.skipMax) ∧
    (∀ v w : Int, v ≤ w → mapOnTime p v ≤ mapOnTime p w ∧ mapSkip p w ≤ mapSkip p v) ∧
    mapOnTime p 0 = 1 ∧ mapOnTime p 100 = p.onTimeMax ∧ mapSkip p 0 = p.skipMax ∧ mapSkip p 255 = 0 ∧
    ((p.onTimeMax : Int) - 1 < 100 → ∃ v : Int, 0 ≤ v ∧ v < 100 ∧ mapOnTime p v = mapOnTime p (v + 1)) ∧
    (p.skipMax < 255 → ∃ v : Int, 0 ≤ v ∧ v < 255 ∧ mapSkip p v = mapSkip p (v + 1))

/-! ### The drive commands and the sequencer (41_multiplex.md) -/

/-- R140: REFRESH starts a sweep at the stored on-time; it is a NOP before configuration and in STEP mode. -/
def Obligations.RefreshStartsASweep : Prop :=
  ∀ s : State,
    (s.cfgDone = true → s.strategy = .sweep →
      exec .refresh s = .next { s with seqMode := .sweep, curSeg := 0#3, sweepT := s.onTime, seq := .segOn }) ∧
    (s.cfgDone = false ∨ s.strategy = .step → exec .refresh s = .next s)

/-- R141: REFRESH.T starts a sweep at the operand clamped to 1 .. ON_TIME_MAX and leaves `on_time`; it is a NOP before
configuration and in STEP mode. -/
def Obligations.RefreshTClampsItsOnTime : Prop :=
  ∀ (s : State) (ot : BitVec 16), s.params.valid = true →
    ∃ t, exec (.refreshT ot) s = .next t ∧
      (s.cfgDone = true → s.strategy = .sweep →
        t.sweepT.toNat = max 1 (min ot.toNat s.params.onTimeMax) ∧
          t = { s with seqMode := .sweep, curSeg := 0#3, sweepT := t.sweepT, seq := .segOn }) ∧
      (s.cfgDone = false ∨ s.strategy = .step → t = s)

/-- R142: ADVANCE_STEP starts a step, with the de-assertion only when a segment phase is left; it is a NOP before
configuration and in SWEEP mode. -/
def Obligations.AdvanceStepStartsAStep : Prop :=
  ∀ s : State,
    (s.cfgDone = true → s.strategy = .step → s.pos.toNat < 8 →
      exec .advanceStep s = .next { s with seqMode := .step, seq := .digOff }) ∧
    (s.cfgDone = true → s.strategy = .step → 8 ≤ s.pos.toNat →
      exec .advanceStep s = .next { s with seqMode := .step, seq := .adv }) ∧
    (s.cfgDone = false ∨ s.strategy = .sweep → exec .advanceStep s = .next s)

/-- R132, R133: SEG_ON asserts the phase's segment line and no other, whatever the masks hold. -/
def Obligations.SegOnAssertsThePhaseLine : Prop :=
  ∀ s : State, s.params.valid = true → s.ubFault = false → (edgeNow s).rst = false → s.seq = .segOn →
    ∃ t, step s = .next t ∧ t.seq = .digOn ∧
      (∀ k < 8, t.segAct.getLsbD k =
        (s.segAct.getLsbD k || decide (k = if s.seqMode = .sweep then s.curSeg.toNat else s.pos.toNat))) ∧
      t = { s with segAct := t.segAct, seq := t.seq, inputs := s.inputs.tail }

/-- R132, R134: DIG_ON asserts every declared digit whose mask has the phase's bit and de-asserts the rest; in SWEEP mode it
loads the hold counter with one less than the hold, and goes on to HOLD unless that is 0. -/
def Obligations.DigOnShowsTheMasks : Prop :=
  ∀ s : State, s.Inv → (edgeNow s).rst = false → s.seq = .digOn →
    ∃ t, step s = .next t ∧
      (∀ i < 8, t.digAct.getLsbD i =
        (decide (i < s.digitCount.toNat) &&
          (Memory.read s.mask i).getLsbD (if s.seqMode = .sweep then s.curSeg.toNat else s.pos.toNat))) ∧
      (s.seqMode = .sweep →
        t.holdCnt.toNat = s.sweepT.toNat * s.params.cyclesPerUs - 1 ∧
        t.seq = (if s.sweepT.toNat * s.params.cyclesPerUs = 1 then .digOff else .hold)) ∧
      (s.seqMode = .step → t.seq = .idle ∧ t.holdCnt = s.holdCnt) ∧
      t = { s with digAct := t.digAct, holdCnt := t.holdCnt, seq := t.seq, inputs := s.inputs.tail }

/-- R135: HOLD counts down, and at 0 goes on to DIG_OFF. -/
def Obligations.HoldCountsDown : Prop :=
  ∀ s : State, s.Inv → (edgeNow s).rst = false → s.seq = .hold →
    ∃ t, step s = .next t ∧ t.holdCnt.toNat + 1 = s.holdCnt.toNat ∧
      t.seq = (if s.holdCnt.toNat = 1 then .digOff else .hold) ∧
      t = { s with holdCnt := t.holdCnt, seq := t.seq, inputs := s.inputs.tail }

/-- R137: DIG_OFF de-asserts every digit line. -/
def Obligations.DigOffDeassertsEveryDigit : Prop :=
  ∀ s : State, s.params.valid = true → s.ubFault = false → (edgeNow s).rst = false → s.seq = .digOff →
    step s = .next { s with digAct := 0#8, seq := .segOff, inputs := s.inputs.tail }

/-- R132, R138: SEG_OFF de-asserts the phase's segment line and no other, then moves to the next sweep phase, ends the sweep,
or goes on to ADV. -/
def Obligations.SegOffEndsThePhase : Prop :=
  ∀ s : State, s.params.valid = true → s.ubFault = false → (edgeNow s).rst = false → s.seq = .segOff →
    ∃ t, step s = .next t ∧
      (∀ k < 8, t.segAct.getLsbD k =
        (s.segAct.getLsbD k && !decide (k = if s.seqMode = .sweep then s.curSeg.toNat else s.pos.toNat))) ∧
      (s.seqMode = .sweep → s.curSeg.toNat = 7 → t.curSeg.toNat = 0 ∧ t.seq = .idle) ∧
      (s.seqMode = .sweep → s.curSeg.toNat < 7 → t.curSeg.toNat = s.curSeg.toNat + 1 ∧ t.seq = .segOn) ∧
      (s.seqMode = .step → t.curSeg = s.curSeg ∧ t.seq = .adv) ∧
      t = { s with segAct := t.segAct, curSeg := t.curSeg, seq := t.seq, inputs := s.inputs.tail }

/-- R139: ADV advances `pos` modulo the stretched period 8 + `skip`, from any `pos`. -/
def Obligations.AdvWrapsAtTheStretchedPeriod : Prop :=
  ∀ s : State, s.params.valid = true → s.ubFault = false → (edgeNow s).rst = false → s.seq = .adv →
    ∃ t, step s = .next t ∧ t.pos.toNat = (s.pos.toNat + 1) % (8 + s.skip.toNat) ∧
      t.pos.toNat < 8 + s.skip.toNat ∧ t.seq = (if t.pos.toNat < 8 then .segOn else .idle) ∧
      t = { s with pos := t.pos, seq := t.seq, inputs := s.inputs.tail }

/-- R136: the digit lines of a phase stay as DIG_ON set them for exactly `sweep_t × CYCLES_PER_US` clock periods, the last of
them with DIG_OFF pending, and DIG_OFF then turns them off. -/
def Obligations.HoldLastsExactlyTheOnTime : Prop :=
  ∀ s : State, s.Inv → noReset s → s.seq = .digOn → s.seqMode = .sweep →
    (∀ k, 1 ≤ k → k ≤ s.sweepT.toNat * s.params.cyclesPerUs →
      ∃ u, Sys2Proof.core.run k s = .next u ∧ u.digAct = litDigits s ∧
        u.seq = (if k = s.sweepT.toNat * s.params.cyclesPerUs then .digOff else .hold)) ∧
    ∃ u, Sys2Proof.core.run (s.sweepT.toNat * s.params.cyclesPerUs + 1) s = .next u ∧ u.digAct = 0#8 ∧ u.seq = .segOff

/-- R140, R141, with the schedule of R232. A REFRESH or REFRESH.T before configuration or in STEP mode does nothing. One accepted
by a configured block in SWEEP mode runs, for each phase j = 0 .. 7, SEG_ON, DIG_ON, `K - 1` HOLD edges, DIG_OFF and SEG_OFF, where
`K = T × CYCLES_PER_US` and `T` is the on-time, or REFRESH.T's operand clamped to 1 .. `ON_TIME_MAX`, whatever the host presents meanwhile short of a reset: `8 × (K + 3)` busy edges in all. In
phase j no segment line but j is on, and it for `K + 2` clock periods, and the digits whose masks have bit j are on for `K`
of them. Then every line is off, the block is ready, and nothing else, `on_time` among it, has changed. -/
def Obligations.SweepRunsItsEightPhases : Prop :=
  (∀ s : State, s.cfgDone = false ∨ s.strategy = .step →
    exec .refresh s = .next s ∧ ∀ ot, exec (.refreshT ot) s = .next s) ∧
  ∀ (s : State) (T K : Nat), s.Inv → s.cfgDone = true → s.strategy = .sweep → s.seq = .idle → noReset s →
    (edgeNow s).cmdValid = true →
    ((decode (edgeNow s).cmdData = .refresh ∧ T = s.onTime.toNat) ∨
      ∃ ot, decode (edgeNow s).cmdData = .refreshT ot ∧ T = max 1 (min ot.toNat s.params.onTimeMax)) →
    K = T * s.params.cyclesPerUs →
    (∀ j < 8, ∀ r < K + 3,
      ∃ u, Sys2Proof.core.run (j * (K + 3) + r + 1) s = .next u ∧ busy u = true ∧ cmdReady u false = false ∧
        u.seq = (if r = 0 then .segOn else if r = 1 then .digOn else if r ≤ K then .hold else if r = K + 1 then .digOff
          else .segOff) ∧
        (∀ i < 8, u.segAct.getLsbD i = (decide (i = j) && decide (1 ≤ r))) ∧
        (∀ i < 8, u.digAct.getLsbD i = (decide (i < s.digitCount.toNat) && (Memory.read s.mask i).getLsbD j
          && decide (2 ≤ r) && decide (r ≤ K + 1)))) ∧
    ∃ t, Sys2Proof.core.run (8 * (K + 3) + 1) s = .next t ∧
      t.sweepT.toNat = T ∧ t = { s with seqMode := .sweep, sweepT := t.sweepT, inputs := t.inputs } ∧
      t.segAct = 0#8 ∧ t.digAct = 0#8 ∧ busy t = false ∧ cmdReady t false = true

/-- R142, with the micro-operations of R232. An ADVANCE_STEP before configuration or in SWEEP mode does nothing. One accepted
by a configured block in STEP mode runs DIG_OFF and SEG_OFF when a segment phase is left, then ADV, then SEG_ON and DIG_ON when
the new phase `n` is a segment phase, one per edge and busy throughout. Then it shows the new phase: its segment and the digits
whose masks have it, or nothing in a dark phase. Nothing else has changed. -/
def Obligations.AdvanceStepShowsTheNextPhase : Prop :=
  (∀ s : State, s.cfgDone = false ∨ s.strategy = .sweep → exec .advanceStep s = .next s) ∧
  ∀ (s : State) (n : Nat) (ops : List Seq), s.Inv → s.cfgDone = true → s.strategy = .step → s.seq = .idle → noReset s →
    (edgeNow s).cmdValid = true → decode (edgeNow s).cmdData = .advanceStep →
    n = (s.pos.toNat + 1) % (8 + s.skip.toNat) →
    ops = (if s.pos.toNat < 8 then [.digOff, .segOff] else []) ++ [.adv] ++ (if n < 8 then [.segOn, .digOn] else []) →
    (∀ (k : Nat) (q : Seq), ops[k]? = some q →
      ∃ u, Sys2Proof.core.run (k + 1) s = .next u ∧ u.seq = q ∧ busy u = true ∧ cmdReady u false = false) ∧
    ∃ t, Sys2Proof.core.run (ops.length + 1) s = .next t ∧ t.seq = .idle ∧ t.pos.toNat = n ∧ busy t = false ∧
      cmdReady t false = true ∧
      (n < 8 → (∀ j < 8, t.segAct.getLsbD j = decide (j = n)) ∧
        ∀ i < 8, t.digAct.getLsbD i = (decide (i < s.digitCount.toNat) && (Memory.read s.mask i).getLsbD n)) ∧
      (8 ≤ n → t.segAct = 0#8 ∧ t.digAct = 0#8) ∧
      t = { s with seqMode := .step, pos := t.pos, segAct := t.segAct, digAct := t.digAct, inputs := t.inputs }

/-- R229 duty 3, R226, R150: at a steady cadence the steps walk the frame. When the host presents an ADVANCE_STEP at every `d`-th
edge, `d` at least 6 (the accepting edge and the longest step), and nothing else, then after `k` of them the phase has advanced by
`k` modulo 8 + `skip`, exactly that phase is shown, or nothing in a dark one, and nothing else has changed. -/
def Obligations.SteadyStepsWalkTheFrame : Prop :=
  ∀ (s : State) (d k : Nat), s.Inv → s.cfgDone = true → s.strategy = .step → s.seq = .idle →
    6 ≤ d → steadySteps d s.inputs → 1 ≤ k → k * d ≤ s.inputs.length →
    ∃ t, Sys2Proof.core.run (k * d) s = .next t ∧ t.pos.toNat = (s.pos.toNat + k) % (8 + s.skip.toNat) ∧
      (∀ j < 8, t.segAct.getLsbD j = decide (j = t.pos.toNat)) ∧
      (∀ i < 8, t.digAct.getLsbD i = (decide (t.pos.toNat < 8) && decide (i < s.digitCount.toNat)
        && (Memory.read s.mask i).getLsbD t.pos.toNat)) ∧
      t = { s with seqMode := .step, pos := t.pos, segAct := t.segAct, digAct := t.digAct,
                   inputs := s.inputs.drop (k * d) }

/-! ### The ports (10_state.md R31, R34, R40; 41_multiplex.md R130) -/

/-- R130: the output levels and enables and `busy`, outside the faulted state; and `cmd_ready = (seq = IDLE) ∧ (rst = 0)`, the
formula of R34. -/
def Obligations.OutputLevelsFollowTheLineState : Prop :=
  ∀ s : State, s.ubFault = false →
    (∀ j < 8, segOe s j = s.cfgDone) ∧
    (∀ i < s.params.maxDigits, digOe s i = (s.cfgDone && decide (i < s.digitCount.toNat))) ∧
    (∀ j < 8, segOut s j =
      if segOe s j = true then (if s.segAct.getLsbD j = true then s.segOnLvl else !s.segOnLvl) else false) ∧
    (∀ i < s.params.maxDigits, digOut s i =
      if digOe s i = true then (if s.digAct.getLsbD i = true then s.digOnLvl else !s.digOnLvl) else false) ∧
    (busy s = true ↔ s.seq ≠ .idle) ∧
    (∀ rst, cmdReady s rst = true ↔ s.seq = .idle ∧ rst = false)

/-- R40: the registers of the read port, bit by bit, outside the faulted state; every address without a register reads 0, and
no read has a side effect: the address on the port never changes what an edge does. -/
def Obligations.ReadPortMap : Prop :=
  (∀ s : State, s.ubFault = false → s.params.maxDigits ≤ 8 →
    (rdReg s 0x00#6).getLsbD 0 = decide (s.seq ≠ .idle) ∧
    (rdReg s 0x00#6).getLsbD 1 = s.cfgDone ∧
    (rdReg s 0x00#6).getLsbD 2 = s.ubFault ∧
    (rdReg s 0x00#6).getLsbD 3 = decide (s.strategy = .step) ∧
    (rdReg s 0x00#6).toNat / 16 % 4 = s.polarity.code ∧
    (rdReg s 0x00#6).getLsbD 6 = s.digOnLvl ∧
    (rdReg s 0x00#6).getLsbD 7 = s.segOnLvl ∧
    (rdReg s 0x00#6).toNat / 256 = s.digitCount.toNat ∧
    (rdReg s 0x01#6).toNat = s.onTime.toNat ∧
    (rdReg s 0x02#6).toNat = s.skip.toNat ∧
    (rdReg s 0x03#6).toNat = s.pos.toNat ∧
    (rdReg s 0x04#6).toNat = s.segAct.toNat + 256 * s.digAct.toNat ∧
    (rdReg s 0x05#6).toNat % 8 = s.seq.code ∧
    (rdReg s 0x05#6).getLsbD 3 = decide (s.seqMode = .step) ∧
    (rdReg s 0x05#6).toNat / 16 % 8 = s.curSeg.toNat ∧
    (rdReg s 0x05#6).toNat / 128 % 512 = 0 ∧
    (rdReg s 0x05#6).toNat / 2 ^ 16 = s.sweepT.toNat ∧
    rdReg s 0x06#6 = s.holdCnt ∧
    (∀ i < s.params.maxDigits, (rdReg s (BitVec.ofNat 6 (8 + i))).toNat = (Memory.read s.mask i).toNat) ∧
    (∀ a : BitVec 6, a.toNat = 7 ∨ 8 + s.params.maxDigits ≤ a.toNat → rdReg s a = 0#32)) ∧
  ∀ (s : State) (e : EdgeInput) (l : List EdgeInput) (a : BitVec 6),
    step (s.withInputs ({ e with rdAddr := a } :: l)) = step (s.withInputs (e :: l))
end

