-- ==== Sys2Proof/Laws/Decode.lean ====
section
/-! SUPPORT. The decoder and the encoder as arithmetic on the word's number (R7, R77, R80). -/

namespace Sys2Proof

/-- A field as a quotient and a remainder (R7). -/
theorem field_toNat (w : CmdWord) (lo len : Nat) : (field w lo len).toNat = w.toNat / 2 ^ lo % 2 ^ len := by
  simp [field, BitVec.extractLsb'_toNat, Nat.shiftRight_eq_div_pow]

/-- One bit as a quotient and a remainder (R7). -/
theorem bit_eq (w : CmdWord) (k : Nat) : w.getLsbD k = decide (w.toNat / 2 ^ k % 2 = 1) := by
  simp [BitVec.getLsbD, Nat.testBit_eq_decide_div_mod_eq]

theorem Polarity.code_lt (p : Polarity) : p.code < 4 := by cases p <;> decide

@[simp] theorem Polarity.ofCode_code (p : Polarity) : Polarity.ofCode (BitVec.ofNat 2 p.code) = p := by cases p <;> decide

@[simp] theorem Strategy.ofBit_bit (t : Strategy) : Strategy.ofBit t.bit = t := by cases t <;> rfl

/-- The number of an encoding fits the word. -/
theorem encodeNat_lt (i : Instr) : encodeNat i < 2 ^ 64 := by
  cases i with
  | nop => simp [encodeNat]
  | configure p t d =>
    have hp := p.code_lt
    have ht := Bool.toNat_lt t.bit
    simp only [encodeNat]
    omega
  | setDigit p y => simp only [encodeNat]; omega
  | setDigits cnt s0 s1 s2 s3 s4 s5 s6 s7 => simp only [encodeNat]; omega
  | setBrightness v => simp only [encodeNat]; omega
  | refresh => simp [encodeNat]
  | refreshT ot => simp only [encodeNat]; omega
  | advanceStep => simp [encodeNat]
  | setNumber sgn dp val =>
    have hs := Bool.toNat_lt sgn
    simp only [encodeNat]
    omega
  | reserved op => simp only [encodeNat]; omega

/-- The encoded word's number (R80). -/
theorem encode_toNat (i : Instr) : (encode i).toNat = encodeNat i := by
  rw [encode, BitVec.toNat_ofNat, Nat.mod_eq_of_lt (encodeNat_lt i)]

end Sys2Proof
end

