-- ==== Sys2Proof/Laws/Lines.lean ====
section
/-! SUPPORT. The line bits: one line's bit, the digit lines DIG_ON asserts, the phase index (R132 to R134, R138). -/

namespace Sys2Proof.Machine

theorem lineBit_getLsbD (j k : Nat) : (lineBit j).getLsbD k = decide (j = k ∧ k < 8) := by
  simp only [lineBit, BitVec.getLsbD_ofNat, Nat.testBit_two_pow]
  by_cases h : j = k <;> by_cases h2 : k < 8 <;> simp [h, h2]

@[simp] theorem zero_or_lineBit (j : Nat) : 0#8 ||| lineBit j = lineBit j := by simp

@[simp] theorem lineBit_and_not_self (j : Nat) : lineBit j &&& ~~~lineBit j = 0#8 := by simp

@[simp] theorem zero_and_not_lineBit (j : Nat) : 0#8 &&& ~~~lineBit j = 0#8 := by simp

/-- The digit line i after a DIG_ON (R134). -/
theorem litDigits_getLsbD (s : State) (i : Nat) (h : i < 8) :
    (litDigits s).getLsbD i =
      (decide (i < s.params.maxDigits) && decide (i < s.digitCount.toNat)
        && (Memory.read s.mask i).getLsbD (phase s)) := by
  rw [litDigits, BitVec.getLsbD_ofFnLE, dif_pos h]

@[simp] theorem phase_sweep {s : State} (h : s.seqMode = .sweep) : phase s = s.curSeg.toNat := by simp [phase, h]

@[simp] theorem phase_step {s : State} (h : s.seqMode = .step) : phase s = s.pos.toNat := by simp [phase, h]

/-- DIG_ON shows the same digits in two states that agree on what it reads (R134). -/
theorem litDigits_congr {s t : State} (hp : t.params = s.params) (hc : t.digitCount = s.digitCount) (hm : t.mask = s.mask)
    (hph : phase t = phase s) : litDigits t = litDigits s := by
  unfold litDigits
  rw [hp, hc, hm, hph]

/-- ADV lands in the stretched period (R139). -/
theorem nextPos_lt (s : State) : nextPos s < 8 + s.skip.toNat := Nat.mod_lt _ (by omega)

theorem nextPos_toNat (s : State) : (BitVec.ofNat 9 (nextPos s)).toNat = nextPos s := by
  have h := nextPos_lt s
  have hs := s.skip.isLt
  rw [BitVec.toNat_ofNat, Nat.mod_eq_of_lt (by omega)]

end Sys2Proof.Machine
end

