-- ==== Sys2Proof/Laws/Memory.lean ====
section
/-! SUPPORT. The mask buffer: read after write, the canonical form, the batch write, and equality by what is read (R28, R53). -/

namespace Sys2Proof.Machine

@[simp] theorem Memory.read_nil (a : Nat) : Memory.read [] a = 0#8 := rfl

theorem Memory.wf_nil : Memory.wf [] := by simp [Memory.wf]

theorem Memory.wf_tail {c : Host.Cell} {m : Memory} (h : Memory.wf (c :: m)) : Memory.wf m := by
  obtain ⟨hp, hn⟩ := h
  exact ⟨(List.pairwise_cons.mp hp).2, fun d hd => hn d (List.mem_cons_of_mem _ hd)⟩

/-- Below the first listed position every position is unlisted. -/
theorem Memory.read_of_lt {m : Memory} {a : Nat} (h : ∀ c ∈ m, a < c.1) : Memory.read m a = 0#8 := by
  induction m with
  | nil => rfl
  | cons c m ih =>
    have hc := h c (by simp)
    rw [Memory.read, if_neg (by omega)]
    exact ih fun d hd => h d (by simp [hd])

/-- A position that is not listed reads as blank. -/
theorem Memory.read_of_not_listed {m : Memory} {a : Nat} (h : ∀ c ∈ m, c.1 ≠ a) : Memory.read m a = 0#8 := by
  induction m with
  | nil => rfl
  | cons c m ih =>
    have hc := h c (by simp)
    rw [Memory.read, if_neg (fun e => hc e.symm)]
    exact ih fun d hd => h d (by simp [hd])

/-- Every entry of the written buffer is an old one or the new one. -/
theorem Memory.mem_write {m : Memory} {a : Nat} {v : Byte} {c : Host.Cell} (h : c ∈ Memory.write m a v) :
    c ∈ m ∨ (c = (a, v) ∧ v ≠ 0#8) := by
  induction m with
  | nil =>
    simp only [Memory.write] at h
    split at h <;> simp_all
  | cons d m ih =>
    simp only [Memory.write] at h
    split at h
    · split at h <;> simp_all
      tauto
    · split at h
      · split at h <;> simp_all
        tauto
      · rcases List.mem_cons.mp h with h | h
        · simp [h]
        · rcases ih h with h | h <;> simp [h]

/-- A write keeps the canonical form (log 9). -/
theorem Memory.write_wf {m : Memory} (h : Memory.wf m) (a : Nat) (v : Byte) : Memory.wf (Memory.write m a v) := by
  induction m with
  | nil =>
    simp only [Memory.write]
    split <;> simp_all [Memory.wf, Memory.unlisted]
  | cons d m ih =>
    have hm := ih (Memory.wf_tail h)
    obtain ⟨hp, hn⟩ := h
    have hd := (List.pairwise_cons.mp hp).1
    simp only [Memory.write]
    split
    · rename_i hlt
      split
      · exact ⟨hp, hn⟩
      · rename_i hv
        refine ⟨List.pairwise_cons.mpr ⟨?_, hp⟩, ?_⟩
        · intro c hc
          rcases List.mem_cons.mp hc with rfl | hc
          · exact hlt
          · have := hd c hc
            simp at *
            omega
        · intro c hc
          rcases List.mem_cons.mp hc with rfl | hc
          · exact hv
          · exact hn c hc
    · split
      · rename_i hne heq
        split
        · exact ⟨(List.pairwise_cons.mp hp).2, fun c hc => hn c (by simp [hc])⟩
        · rename_i hv
          refine ⟨List.pairwise_cons.mpr ⟨?_, (List.pairwise_cons.mp hp).2⟩, ?_⟩
          · intro c hc
            have := hd c hc
            simp at *
            omega
          · intro c hc
            rcases List.mem_cons.mp hc with rfl | hc
            · exact hv
            · exact hn c (by simp [hc])
      · rename_i hnlt hne
        refine ⟨List.pairwise_cons.mpr ⟨?_, hm.1⟩, ?_⟩
        · intro c hc
          rcases Memory.mem_write hc with hc | ⟨rfl, -⟩
          · exact hd c hc
          · simp at *
            omega
        · intro c hc
          rcases List.mem_cons.mp hc with rfl | hc
          · exact hn _ (by simp)
          · exact hm.2 c hc

/-- A read after a write (R28, R53). -/
theorem Memory.read_write {m : Memory} (h : Memory.wf m) (a b : Nat) (v : Byte) :
    Memory.read (Memory.write m a v) b = if b = a then v else Memory.read m b := by
  induction m with
  | nil =>
    simp only [Memory.write]
    split <;> simp_all [Memory.read, Memory.unlisted]
  | cons d m ih =>
    have hm := ih (Memory.wf_tail h)
    have hd := (List.pairwise_cons.mp h.1).1
    have low : ∀ x ≤ d.1, Memory.read m x = 0#8 := fun x hx =>
      Memory.read_of_lt fun c hc => lt_of_le_of_lt hx (hd c hc)
    simp only [Memory.write]
    split
    · rename_i hlt
      split
      · rename_i hv
        by_cases hb : b = a
        · have hbd : b ≠ d.1 := by simp at *; omega
          rw [if_pos hb, hv, Memory.read, if_neg hbd, low b (by simp at *; omega)]
        · rw [if_neg hb]
      · rw [Memory.read]
    · split
      · rename_i hnlt heq
        split
        · rename_i hv
          by_cases hb : b = a
          · rw [if_pos hb, hv, low b (by simp at *; omega)]
          · have hbd : b ≠ d.1 := by simp at *; omega
            rw [if_neg hb, Memory.read, if_neg hbd]
        · by_cases hb : b = a
          · rw [if_pos hb, Memory.read, if_pos hb]
          · have hbd : b ≠ d.1 := by simp at *; omega
            rw [if_neg hb, Memory.read, if_neg hb, Memory.read, if_neg hbd]
      · rename_i hnlt hne
        by_cases hbd : b = d.1
        · have hba : b ≠ a := by simp at *; omega
          rw [if_neg hba, Memory.read, if_pos hbd, Memory.read, if_pos hbd]
        · rw [Memory.read, if_neg hbd, hm, Memory.read, if_neg hbd]

theorem Memory.writeOpt_wf {m : Memory} (h : Memory.wf m) (a : Nat) (v : Option Byte) :
    Memory.wf (Memory.writeOpt m a v) := by
  cases v with
  | none => exact h
  | some u => exact Memory.write_wf h a u

theorem Memory.read_writeOpt {m : Memory} (h : Memory.wf m) (a b : Nat) (v : Option Byte) :
    Memory.read (Memory.writeOpt m a v) b = if b = a then v.getD (Memory.read m b) else Memory.read m b := by
  cases v with
  | none => simp [Memory.writeOpt]
  | some u => simp [Memory.writeOpt, Memory.read_write h]

theorem Memory.writeEach_wf {m : Memory} (h : Memory.wf m) (n : Nat) (f : Nat → Option Byte) :
    Memory.wf (Memory.writeEach n f m) := by
  induction n with
  | zero => exact h
  | succ n ih => exact Memory.writeOpt_wf ih n (f n)

/-- What the batch write leaves at every position (R53, R113). -/
theorem Memory.read_writeEach {m : Memory} (h : Memory.wf m) (n : Nat) (f : Nat → Option Byte) (b : Nat) :
    Memory.read (Memory.writeEach n f m) b = if b < n then (f b).getD (Memory.read m b) else Memory.read m b := by
  induction n with
  | zero => simp [Memory.writeEach]
  | succ n ih =>
    rw [Memory.writeEach, Memory.read_writeOpt (Memory.writeEach_wf h n f), ih]
    by_cases hb : b = n
    · subst hb
      simp
    · have : b < n + 1 ↔ b < n := by omega
      simp [hb, this]

/-- Entries of the batch-written buffer stand below `n` or were there before. -/
theorem Memory.mem_writeEach {m : Memory} {n : Nat} {f : Nat → Option Byte} {c : Host.Cell}
    (h : c ∈ Memory.writeEach n f m) : c ∈ m ∨ c.1 < n := by
  induction n with
  | zero => exact .inl h
  | succ n ih =>
    rw [Memory.writeEach] at h
    cases hf : f n with
    | none =>
      rw [hf] at h
      rcases ih h with h | h
      · exact .inl h
      · exact .inr (by omega)
    | some u =>
      rw [hf] at h
      rcases Memory.mem_write h with h | ⟨rfl, -⟩
      · rcases ih h with h | h
        · exact .inl h
        · exact .inr (by omega)
      · exact .inr (by simp)

/-- A listed entry reads as itself. -/
theorem Memory.read_of_mem {m : Memory} (h : Memory.wf m) {c : Host.Cell} (hc : c ∈ m) : Memory.read m c.1 = c.2 := by
  induction m with
  | nil => simp at hc
  | cons d m ih =>
    have hd := (List.pairwise_cons.mp h.1).1
    rcases List.mem_cons.mp hc with rfl | hc
    · rw [Memory.read, if_pos rfl]
    · have := hd c hc
      rw [Memory.read, if_neg (by omega), ih (Memory.wf_tail h) hc]

/-- A canonical buffer that reads blank at every position lists nothing. -/
theorem Memory.eq_nil_of_read {m : Memory} (h : Memory.wf m) (hr : ∀ a, Memory.read m a = 0#8) : m = [] := by
  cases m with
  | nil => rfl
  | cons d m =>
    have h1 := Memory.read_of_mem h (c := d) (by simp)
    exact absurd (h1.symm.trans (hr d.1)) (h.2 d (by simp))

end Sys2Proof.Machine
end

