-- ==== Sys2Proof/Laws/Operands.lean ====
section
/-! SUPPORT. Operand values: the clamp, the parameter constraints one by one, the brightness maps, the digit count a CONFIGURE
sets, the on-time of a REFRESH.T, and the symbol table's fixed entries (R6, R8, R103, R141, R161, R162, R180). -/

namespace Sys2Proof

/-- The constraints of R6, one by one. -/
theorem Params.valid_iff (p : Params) : p.valid = true ↔
    1 ≤ p.maxDigits ∧ p.maxDigits ≤ 8 ∧ 1 ≤ p.onTimeMax ∧ p.onTimeMax ≤ 65535 ∧ p.skipMax ≤ 255 ∧
      1 ≤ p.cyclesPerUs ∧ p.onTimeMax * p.cyclesPerUs ≤ 2 ^ 32 ∧ p.tableValid = true := by
  simp [Params.valid, and_assoc]

/-- The fixed entries of the symbol table and its decimal-point bits (R103). -/
theorem Params.table_spec {p : Params} (h : p.valid = true) :
    p.symbolTable.length = 18 ∧ p.sym 0 = 0x3F#8 ∧ p.sym 16 = 0x00#8 ∧ p.sym 17 = 0x40#8 ∧
      ∀ s < 18, (p.sym s).getLsbD 7 = false := by
  have ht := ((Params.valid_iff p).mp h).2.2.2.2.2.2.2
  simp only [Params.tableValid, Bool.and_eq_true, beq_iff_eq, List.all_eq_true, Bool.not_eq_true'] at ht
  obtain ⟨⟨⟨⟨hl, h0⟩, h16⟩, h17⟩, hb⟩ := ht
  refine ⟨hl, ?_, ?_, ?_, ?_⟩
  · simp [Params.sym, List.getD_eq_getElem?_getD, h0]
  · simp [Params.sym, List.getD_eq_getElem?_getD, h16]
  · simp [Params.sym, List.getD_eq_getElem?_getD, h17]
  · intro s hs
    have hs' : s < p.symbolTable.length := by omega
    have hm := hb _ (List.getElem_mem hs')
    simpa [Params.sym, List.getD_eq_getElem?_getD, List.getElem?_eq_getElem hs'] using hm

namespace Machine

theorem clamp_lower {v lo hi : Int} (h : lo ≤ hi) : lo ≤ clamp v lo hi := by
  unfold clamp; split_ifs <;> omega

theorem clamp_upper {v lo hi : Int} (h : lo ≤ hi) : clamp v lo hi ≤ hi := by
  unfold clamp; split_ifs <;> omega

theorem clamp_mono {v w lo hi : Int} (h : lo ≤ hi) (hv : v ≤ w) : clamp v lo hi ≤ clamp w lo hi := by
  unfold clamp; split_ifs <;> omega

theorem clamp_of_mem {v lo hi : Int} (h1 : lo ≤ v) (h2 : v ≤ hi) : clamp v lo hi = v := by
  unfold clamp; split_ifs <;> omega

/-- A number that fits a register is the number the register then holds. -/
theorem toNat_ofInt_of_fits {w : Nat} {v : Int} (h0 : 0 ≤ v) (h : v < 2 ^ w) : (BitVec.ofInt w v).toNat = v.toNat := by
  rw [BitVec.toNat_ofInt, Int.emod_eq_of_lt h0 (by exact_mod_cast h)]

theorem configuredCount_toNat {p : Params} (h : p.valid = true) (dcnt : BitVec 4) :
    ((configuredCount p dcnt).toNat : Int) = clamp dcnt.toNat 1 p.maxDigits := by
  obtain ⟨h1, h8, -⟩ := (Params.valid_iff p).mp h
  have hl := clamp_lower (v := dcnt.toNat) (show (1 : Int) ≤ p.maxDigits by omega)
  have hu := clamp_upper (v := dcnt.toNat) (show (1 : Int) ≤ p.maxDigits by omega)
  rw [configuredCount, toNat_ofInt_of_fits (by omega) (by omega)]
  omega

theorem sweepOnTime_toNat {p : Params} (h : p.valid = true) (ot : BitVec 16) :
    ((sweepOnTime p ot).toNat : Int) = clamp ot.toNat 1 p.onTimeMax := by
  obtain ⟨-, -, h1, h8, -⟩ := (Params.valid_iff p).mp h
  have hl := clamp_lower (v := ot.toNat) (show (1 : Int) ≤ p.onTimeMax by omega)
  have hu := clamp_upper (v := ot.toNat) (show (1 : Int) ≤ p.onTimeMax by omega)
  rw [sweepOnTime, toNat_ofInt_of_fits (by omega) (by omega)]
  omega

/-- The on-time map stays within its bounds (R161, R163). -/
theorem mapOnTime_bounds {p : Params} (h : p.valid = true) (v : Int) :
    1 ≤ mapOnTime p v ∧ mapOnTime p v ≤ p.onTimeMax := by
  obtain ⟨-, -, h1, -⟩ := (Params.valid_iff p).mp h
  have hl := clamp_lower (v := v) (show (0 : Int) ≤ 100 by omega)
  have hu := clamp_upper (v := v) (show (0 : Int) ≤ 100 by omega)
  have hm : (0 : Int) ≤ (p.onTimeMax : Int) - 1 := by omega
  have h0 : 0 ≤ clamp v 0 100 * ((p.onTimeMax : Int) - 1) := mul_nonneg hl hm
  have h2 : clamp v 0 100 * ((p.onTimeMax : Int) - 1) ≤ 100 * ((p.onTimeMax : Int) - 1) := by gcongr
  unfold mapOnTime
  omega

/-- The skip map stays within its bounds (R162, R163). -/
theorem mapSkip_bounds (p : Params) (v : Int) : 0 ≤ mapSkip p v ∧ mapSkip p v ≤ p.skipMax := by
  have hl := clamp_lower (v := v) (show (0 : Int) ≤ 255 by omega)
  have hu := clamp_upper (v := v) (show (0 : Int) ≤ 255 by omega)
  have h0 : 0 ≤ (255 - clamp v 0 255) * (p.skipMax : Int) := mul_nonneg (by omega) (by omega)
  have h2 : (255 - clamp v 0 255) * (p.skipMax : Int) ≤ 255 * (p.skipMax : Int) := by gcongr; omega
  unfold mapSkip
  omega

theorem onTime_register {p : Params} (h : p.valid = true) (v : Int) :
    ((BitVec.ofInt 16 (mapOnTime p v)).toNat : Int) = mapOnTime p v := by
  obtain ⟨-, -, -, h8, -⟩ := (Params.valid_iff p).mp h
  obtain ⟨hl, hu⟩ := mapOnTime_bounds h v
  rw [toNat_ofInt_of_fits (by omega) (by omega)]
  omega

theorem skip_register {p : Params} (h : p.valid = true) (v : Int) :
    ((BitVec.ofInt 8 (mapSkip p v)).toNat : Int) = mapSkip p v := by
  obtain ⟨-, -, -, -, h8, -⟩ := (Params.valid_iff p).mp h
  obtain ⟨hl, hu⟩ := mapSkip_bounds p v
  rw [toNat_ofInt_of_fits (by omega) (by omega)]
  omega

/-- The hold a DIG_ON loads fits the hold counter (R6, R134). -/
theorem holdLoad_toNat {s : State} (h : s.params.valid = true) (h1 : 1 ≤ s.sweepT.toNat)
    (h2 : s.sweepT.toNat ≤ s.params.onTimeMax) :
    (BitVec.ofInt 32 (holdLoad s)).toNat = s.sweepT.toNat * s.params.cyclesPerUs - 1 := by
  obtain ⟨-, -, -, -, -, hc, hm, -⟩ := (Params.valid_iff s.params).mp h
  have hle : s.sweepT.toNat * s.params.cyclesPerUs ≤ s.params.onTimeMax * s.params.cyclesPerUs :=
    Nat.mul_le_mul_right _ h2
  have hge : 1 ≤ s.sweepT.toNat * s.params.cyclesPerUs := Nat.mul_pos h1 hc
  have hcast : holdLoad s = ((s.sweepT.toNat * s.params.cyclesPerUs : Nat) : Int) - 1 := by simp [holdLoad]
  rw [hcast, toNat_ofInt_of_fits (by omega) (by omega)]
  omega

end Machine

end Sys2Proof
end

