-- ==== Sys2Proof/Laws/PerInstr.lean ====
section
/-! SUPPORT. The per-instruction family OpcodeField: the opcode bits of every command's word are its row's (R72). -/

namespace Sys2Proof.Laws.OpcodeField

/-- The opcode of a command's row (R72). -/
def opcodeOf (i : Instr) : Nat :=
  match i with
  | .nop => 0x0
  | .configure _ _ _ => 0x1
  | .setDigit _ _ => 0x2
  | .setDigits _ _ _ _ _ _ _ _ _ => 0x3
  | .setBrightness _ => 0x4
  | .refresh => 0x5
  | .refreshT _ => 0x5
  | .advanceStep => 0x6
  | .setNumber _ _ _ => 0x7
  | .reserved op => op.toNat

/-- The field `w[63:60]` of the command's word is its opcode. -/
def Statement (i : Instr) : Prop := (field (encode i) 60 4).toNat = opcodeOf i

theorem nop : Statement .nop := by
  rw [Statement, field_toNat, encode_toNat]; rfl

theorem configure (pol : Polarity) (strat : Strategy) (dcnt : BitVec 4) : Statement (.configure pol strat dcnt) := by
  have hp := pol.code_lt
  have ht := Bool.toNat_lt strat.bit
  rw [Statement, field_toNat, encode_toNat]
  simp only [encodeNat, opcodeOf]
  omega

theorem setDigit (pos : BitVec 4) (sym : BitVec 5) : Statement (.setDigit pos sym) := by
  rw [Statement, field_toNat, encode_toNat]
  simp only [encodeNat, opcodeOf]
  omega

theorem setDigits (cnt : BitVec 4) (sym0 sym1 sym2 sym3 sym4 sym5 sym6 sym7 : BitVec 5) :
    Statement (.setDigits cnt sym0 sym1 sym2 sym3 sym4 sym5 sym6 sym7) := by
  rw [Statement, field_toNat, encode_toNat]
  simp only [encodeNat, opcodeOf]
  omega

theorem setBrightness (val : Int) : Statement (.setBrightness val) := by
  rw [Statement, field_toNat, encode_toNat]
  simp only [encodeNat, opcodeOf]
  omega

theorem refresh : Statement .refresh := by
  rw [Statement, field_toNat, encode_toNat]; rfl

theorem refreshT (ot : BitVec 16) : Statement (.refreshT ot) := by
  rw [Statement, field_toNat, encode_toNat]
  simp only [encodeNat, opcodeOf]
  omega

theorem advanceStep : Statement .advanceStep := by
  rw [Statement, field_toNat, encode_toNat]; rfl

theorem setNumber (sgn : Bool) (dp : BitVec 4) (val : Int) : Statement (.setNumber sgn dp val) := by
  have hs := Bool.toNat_lt sgn
  rw [Statement, field_toNat, encode_toNat]
  simp only [encodeNat, opcodeOf]
  omega

theorem reserved (op : BitVec 4) : Statement (.reserved op) := by
  rw [Statement, field_toNat, encode_toNat]
  simp only [encodeNat, opcodeOf]
  omega

end Sys2Proof.Laws.OpcodeField
end

