-- ==== Sys2Proof/Laws/State.lean ====
section
/-! SUPPORT. What each update of the state leaves in each field: one lemma per field and update. -/

namespace Sys2Proof.Machine

/-! ### afterInputs -/

@[simp] theorem afterInputs_params (s : State) : (afterInputs s).params = s.params := rfl
@[simp] theorem afterInputs_cfgDone (s : State) : (afterInputs s).cfgDone = s.cfgDone := rfl
@[simp] theorem afterInputs_ubFault (s : State) : (afterInputs s).ubFault = s.ubFault := rfl
@[simp] theorem afterInputs_polarity (s : State) : (afterInputs s).polarity = s.polarity := rfl
@[simp] theorem afterInputs_digOnLvl (s : State) : (afterInputs s).digOnLvl = s.digOnLvl := rfl
@[simp] theorem afterInputs_segOnLvl (s : State) : (afterInputs s).segOnLvl = s.segOnLvl := rfl
@[simp] theorem afterInputs_strategy (s : State) : (afterInputs s).strategy = s.strategy := rfl
@[simp] theorem afterInputs_digitCount (s : State) : (afterInputs s).digitCount = s.digitCount := rfl
@[simp] theorem afterInputs_mask (s : State) : (afterInputs s).mask = s.mask := rfl
@[simp] theorem afterInputs_onTime (s : State) : (afterInputs s).onTime = s.onTime := rfl
@[simp] theorem afterInputs_skip (s : State) : (afterInputs s).skip = s.skip := rfl
@[simp] theorem afterInputs_pos (s : State) : (afterInputs s).pos = s.pos := rfl
@[simp] theorem afterInputs_seq (s : State) : (afterInputs s).seq = s.seq := rfl
@[simp] theorem afterInputs_seqMode (s : State) : (afterInputs s).seqMode = s.seqMode := rfl
@[simp] theorem afterInputs_curSeg (s : State) : (afterInputs s).curSeg = s.curSeg := rfl
@[simp] theorem afterInputs_holdCnt (s : State) : (afterInputs s).holdCnt = s.holdCnt := rfl
@[simp] theorem afterInputs_sweepT (s : State) : (afterInputs s).sweepT = s.sweepT := rfl
@[simp] theorem afterInputs_segAct (s : State) : (afterInputs s).segAct = s.segAct := rfl
@[simp] theorem afterInputs_digAct (s : State) : (afterInputs s).digAct = s.digAct := rfl
@[simp] theorem afterInputs_inputs (s : State) : (afterInputs s).inputs = s.inputs.tail := rfl
@[simp] theorem afterInputs_freeCount (s : State) : (afterInputs s).freeCount = s.freeCount := rfl

/-! ### withInputs -/

@[simp] theorem withInputs_params (s : State) (l : List EdgeInput) : (s.withInputs l).params = s.params := rfl
@[simp] theorem withInputs_cfgDone (s : State) (l : List EdgeInput) : (s.withInputs l).cfgDone = s.cfgDone := rfl
@[simp] theorem withInputs_ubFault (s : State) (l : List EdgeInput) : (s.withInputs l).ubFault = s.ubFault := rfl
@[simp] theorem withInputs_polarity (s : State) (l : List EdgeInput) : (s.withInputs l).polarity = s.polarity := rfl
@[simp] theorem withInputs_digOnLvl (s : State) (l : List EdgeInput) : (s.withInputs l).digOnLvl = s.digOnLvl := rfl
@[simp] theorem withInputs_segOnLvl (s : State) (l : List EdgeInput) : (s.withInputs l).segOnLvl = s.segOnLvl := rfl
@[simp] theorem withInputs_strategy (s : State) (l : List EdgeInput) : (s.withInputs l).strategy = s.strategy := rfl
@[simp] theorem withInputs_digitCount (s : State) (l : List EdgeInput) : (s.withInputs l).digitCount = s.digitCount := rfl
@[simp] theorem withInputs_mask (s : State) (l : List EdgeInput) : (s.withInputs l).mask = s.mask := rfl
@[simp] theorem withInputs_onTime (s : State) (l : List EdgeInput) : (s.withInputs l).onTime = s.onTime := rfl
@[simp] theorem withInputs_skip (s : State) (l : List EdgeInput) : (s.withInputs l).skip = s.skip := rfl
@[simp] theorem withInputs_pos (s : State) (l : List EdgeInput) : (s.withInputs l).pos = s.pos := rfl
@[simp] theorem withInputs_seq (s : State) (l : List EdgeInput) : (s.withInputs l).seq = s.seq := rfl
@[simp] theorem withInputs_seqMode (s : State) (l : List EdgeInput) : (s.withInputs l).seqMode = s.seqMode := rfl
@[simp] theorem withInputs_curSeg (s : State) (l : List EdgeInput) : (s.withInputs l).curSeg = s.curSeg := rfl
@[simp] theorem withInputs_holdCnt (s : State) (l : List EdgeInput) : (s.withInputs l).holdCnt = s.holdCnt := rfl
@[simp] theorem withInputs_sweepT (s : State) (l : List EdgeInput) : (s.withInputs l).sweepT = s.sweepT := rfl
@[simp] theorem withInputs_segAct (s : State) (l : List EdgeInput) : (s.withInputs l).segAct = s.segAct := rfl
@[simp] theorem withInputs_digAct (s : State) (l : List EdgeInput) : (s.withInputs l).digAct = s.digAct := rfl
@[simp] theorem withInputs_inputs (s : State) (l : List EdgeInput) : (s.withInputs l).inputs = l := rfl
@[simp] theorem withInputs_freeCount (s : State) (l : List EdgeInput) : (s.withInputs l).freeCount = s.freeCount := rfl

/-! ### startSweep -/

@[simp] theorem startSweep_params (t : BitVec 16) (s : State) : (startSweep t s).params = s.params := rfl
@[simp] theorem startSweep_cfgDone (t : BitVec 16) (s : State) : (startSweep t s).cfgDone = s.cfgDone := rfl
@[simp] theorem startSweep_ubFault (t : BitVec 16) (s : State) : (startSweep t s).ubFault = s.ubFault := rfl
@[simp] theorem startSweep_polarity (t : BitVec 16) (s : State) : (startSweep t s).polarity = s.polarity := rfl
@[simp] theorem startSweep_digOnLvl (t : BitVec 16) (s : State) : (startSweep t s).digOnLvl = s.digOnLvl := rfl
@[simp] theorem startSweep_segOnLvl (t : BitVec 16) (s : State) : (startSweep t s).segOnLvl = s.segOnLvl := rfl
@[simp] theorem startSweep_strategy (t : BitVec 16) (s : State) : (startSweep t s).strategy = s.strategy := rfl
@[simp] theorem startSweep_digitCount (t : BitVec 16) (s : State) : (startSweep t s).digitCount = s.digitCount := rfl
@[simp] theorem startSweep_mask (t : BitVec 16) (s : State) : (startSweep t s).mask = s.mask := rfl
@[simp] theorem startSweep_onTime (t : BitVec 16) (s : State) : (startSweep t s).onTime = s.onTime := rfl
@[simp] theorem startSweep_skip (t : BitVec 16) (s : State) : (startSweep t s).skip = s.skip := rfl
@[simp] theorem startSweep_pos (t : BitVec 16) (s : State) : (startSweep t s).pos = s.pos := rfl
@[simp] theorem startSweep_seq (t : BitVec 16) (s : State) : (startSweep t s).seq = .segOn := rfl
@[simp] theorem startSweep_seqMode (t : BitVec 16) (s : State) : (startSweep t s).seqMode = .sweep := rfl
@[simp] theorem startSweep_curSeg (t : BitVec 16) (s : State) : (startSweep t s).curSeg = 0#3 := rfl
@[simp] theorem startSweep_holdCnt (t : BitVec 16) (s : State) : (startSweep t s).holdCnt = s.holdCnt := rfl
@[simp] theorem startSweep_sweepT (t : BitVec 16) (s : State) : (startSweep t s).sweepT = t := rfl
@[simp] theorem startSweep_segAct (t : BitVec 16) (s : State) : (startSweep t s).segAct = s.segAct := rfl
@[simp] theorem startSweep_digAct (t : BitVec 16) (s : State) : (startSweep t s).digAct = s.digAct := rfl
@[simp] theorem startSweep_inputs (t : BitVec 16) (s : State) : (startSweep t s).inputs = s.inputs := rfl
@[simp] theorem startSweep_freeCount (t : BitVec 16) (s : State) : (startSweep t s).freeCount = s.freeCount := rfl

/-! ### segOnOp -/

@[simp] theorem segOnOp_params (s : State) : (segOnOp s).params = s.params := rfl
@[simp] theorem segOnOp_cfgDone (s : State) : (segOnOp s).cfgDone = s.cfgDone := rfl
@[simp] theorem segOnOp_ubFault (s : State) : (segOnOp s).ubFault = s.ubFault := rfl
@[simp] theorem segOnOp_polarity (s : State) : (segOnOp s).polarity = s.polarity := rfl
@[simp] theorem segOnOp_digOnLvl (s : State) : (segOnOp s).digOnLvl = s.digOnLvl := rfl
@[simp] theorem segOnOp_segOnLvl (s : State) : (segOnOp s).segOnLvl = s.segOnLvl := rfl
@[simp] theorem segOnOp_strategy (s : State) : (segOnOp s).strategy = s.strategy := rfl
@[simp] theorem segOnOp_digitCount (s : State) : (segOnOp s).digitCount = s.digitCount := rfl
@[simp] theorem segOnOp_mask (s : State) : (segOnOp s).mask = s.mask := rfl
@[simp] theorem segOnOp_onTime (s : State) : (segOnOp s).onTime = s.onTime := rfl
@[simp] theorem segOnOp_skip (s : State) : (segOnOp s).skip = s.skip := rfl
@[simp] theorem segOnOp_pos (s : State) : (segOnOp s).pos = s.pos := rfl
@[simp] theorem segOnOp_seq (s : State) : (segOnOp s).seq = .digOn := rfl
@[simp] theorem segOnOp_seqMode (s : State) : (segOnOp s).seqMode = s.seqMode := rfl
@[simp] theorem segOnOp_curSeg (s : State) : (segOnOp s).curSeg = s.curSeg := rfl
@[simp] theorem segOnOp_holdCnt (s : State) : (segOnOp s).holdCnt = s.holdCnt := rfl
@[simp] theorem segOnOp_sweepT (s : State) : (segOnOp s).sweepT = s.sweepT := rfl
@[simp] theorem segOnOp_segAct (s : State) : (segOnOp s).segAct = s.segAct ||| lineBit (phase s) := rfl
@[simp] theorem segOnOp_digAct (s : State) : (segOnOp s).digAct = s.digAct := rfl
@[simp] theorem segOnOp_inputs (s : State) : (segOnOp s).inputs = s.inputs := rfl
@[simp] theorem segOnOp_freeCount (s : State) : (segOnOp s).freeCount = s.freeCount := rfl

/-! ### digOffOp -/

@[simp] theorem digOffOp_params (s : State) : (digOffOp s).params = s.params := rfl
@[simp] theorem digOffOp_cfgDone (s : State) : (digOffOp s).cfgDone = s.cfgDone := rfl
@[simp] theorem digOffOp_ubFault (s : State) : (digOffOp s).ubFault = s.ubFault := rfl
@[simp] theorem digOffOp_polarity (s : State) : (digOffOp s).polarity = s.polarity := rfl
@[simp] theorem digOffOp_digOnLvl (s : State) : (digOffOp s).digOnLvl = s.digOnLvl := rfl
@[simp] theorem digOffOp_segOnLvl (s : State) : (digOffOp s).segOnLvl = s.segOnLvl := rfl
@[simp] theorem digOffOp_strategy (s : State) : (digOffOp s).strategy = s.strategy := rfl
@[simp] theorem digOffOp_digitCount (s : State) : (digOffOp s).digitCount = s.digitCount := rfl
@[simp] theorem digOffOp_mask (s : State) : (digOffOp s).mask = s.mask := rfl
@[simp] theorem digOffOp_onTime (s : State) : (digOffOp s).onTime = s.onTime := rfl
@[simp] theorem digOffOp_skip (s : State) : (digOffOp s).skip = s.skip := rfl
@[simp] theorem digOffOp_pos (s : State) : (digOffOp s).pos = s.pos := rfl
@[simp] theorem digOffOp_seq (s : State) : (digOffOp s).seq = .segOff := rfl
@[simp] theorem digOffOp_seqMode (s : State) : (digOffOp s).seqMode = s.seqMode := rfl
@[simp] theorem digOffOp_curSeg (s : State) : (digOffOp s).curSeg = s.curSeg := rfl
@[simp] theorem digOffOp_holdCnt (s : State) : (digOffOp s).holdCnt = s.holdCnt := rfl
@[simp] theorem digOffOp_sweepT (s : State) : (digOffOp s).sweepT = s.sweepT := rfl
@[simp] theorem digOffOp_segAct (s : State) : (digOffOp s).segAct = s.segAct := rfl
@[simp] theorem digOffOp_digAct (s : State) : (digOffOp s).digAct = 0#8 := rfl
@[simp] theorem digOffOp_inputs (s : State) : (digOffOp s).inputs = s.inputs := rfl
@[simp] theorem digOffOp_freeCount (s : State) : (digOffOp s).freeCount = s.freeCount := rfl

/-! ### holdOp -/

@[simp] theorem holdOp_params (s : State) : (holdOp s).params = s.params := rfl
@[simp] theorem holdOp_cfgDone (s : State) : (holdOp s).cfgDone = s.cfgDone := rfl
@[simp] theorem holdOp_ubFault (s : State) : (holdOp s).ubFault = s.ubFault := rfl
@[simp] theorem holdOp_polarity (s : State) : (holdOp s).polarity = s.polarity := rfl
@[simp] theorem holdOp_digOnLvl (s : State) : (holdOp s).digOnLvl = s.digOnLvl := rfl
@[simp] theorem holdOp_segOnLvl (s : State) : (holdOp s).segOnLvl = s.segOnLvl := rfl
@[simp] theorem holdOp_strategy (s : State) : (holdOp s).strategy = s.strategy := rfl
@[simp] theorem holdOp_digitCount (s : State) : (holdOp s).digitCount = s.digitCount := rfl
@[simp] theorem holdOp_mask (s : State) : (holdOp s).mask = s.mask := rfl
@[simp] theorem holdOp_onTime (s : State) : (holdOp s).onTime = s.onTime := rfl
@[simp] theorem holdOp_skip (s : State) : (holdOp s).skip = s.skip := rfl
@[simp] theorem holdOp_pos (s : State) : (holdOp s).pos = s.pos := rfl
@[simp] theorem holdOp_seq (s : State) : (holdOp s).seq = if s.holdCnt - 1#32 = 0#32 then .digOff else .hold := rfl
@[simp] theorem holdOp_seqMode (s : State) : (holdOp s).seqMode = s.seqMode := rfl
@[simp] theorem holdOp_curSeg (s : State) : (holdOp s).curSeg = s.curSeg := rfl
@[simp] theorem holdOp_holdCnt (s : State) : (holdOp s).holdCnt = s.holdCnt - 1#32 := rfl
@[simp] theorem holdOp_sweepT (s : State) : (holdOp s).sweepT = s.sweepT := rfl
@[simp] theorem holdOp_segAct (s : State) : (holdOp s).segAct = s.segAct := rfl
@[simp] theorem holdOp_digAct (s : State) : (holdOp s).digAct = s.digAct := rfl
@[simp] theorem holdOp_inputs (s : State) : (holdOp s).inputs = s.inputs := rfl
@[simp] theorem holdOp_freeCount (s : State) : (holdOp s).freeCount = s.freeCount := rfl

/-! ### advOp -/

@[simp] theorem advOp_params (s : State) : (advOp s).params = s.params := rfl
@[simp] theorem advOp_cfgDone (s : State) : (advOp s).cfgDone = s.cfgDone := rfl
@[simp] theorem advOp_ubFault (s : State) : (advOp s).ubFault = s.ubFault := rfl
@[simp] theorem advOp_polarity (s : State) : (advOp s).polarity = s.polarity := rfl
@[simp] theorem advOp_digOnLvl (s : State) : (advOp s).digOnLvl = s.digOnLvl := rfl
@[simp] theorem advOp_segOnLvl (s : State) : (advOp s).segOnLvl = s.segOnLvl := rfl
@[simp] theorem advOp_strategy (s : State) : (advOp s).strategy = s.strategy := rfl
@[simp] theorem advOp_digitCount (s : State) : (advOp s).digitCount = s.digitCount := rfl
@[simp] theorem advOp_mask (s : State) : (advOp s).mask = s.mask := rfl
@[simp] theorem advOp_onTime (s : State) : (advOp s).onTime = s.onTime := rfl
@[simp] theorem advOp_skip (s : State) : (advOp s).skip = s.skip := rfl
@[simp] theorem advOp_pos (s : State) : (advOp s).pos = BitVec.ofNat 9 (nextPos s) := rfl
@[simp] theorem advOp_seq (s : State) : (advOp s).seq = if nextPos s < 8 then .segOn else .idle := rfl
@[simp] theorem advOp_seqMode (s : State) : (advOp s).seqMode = s.seqMode := rfl
@[simp] theorem advOp_curSeg (s : State) : (advOp s).curSeg = s.curSeg := rfl
@[simp] theorem advOp_holdCnt (s : State) : (advOp s).holdCnt = s.holdCnt := rfl
@[simp] theorem advOp_sweepT (s : State) : (advOp s).sweepT = s.sweepT := rfl
@[simp] theorem advOp_segAct (s : State) : (advOp s).segAct = s.segAct := rfl
@[simp] theorem advOp_digAct (s : State) : (advOp s).digAct = s.digAct := rfl
@[simp] theorem advOp_inputs (s : State) : (advOp s).inputs = s.inputs := rfl
@[simp] theorem advOp_freeCount (s : State) : (advOp s).freeCount = s.freeCount := rfl

/-! ### configureOnce -/

@[simp] theorem configureOnce_params (pol : Polarity) (strat : Strategy) (dcnt : BitVec 4) (s : State) : (configureOnce pol strat dcnt s).params = s.params := rfl
@[simp] theorem configureOnce_cfgDone (pol : Polarity) (strat : Strategy) (dcnt : BitVec 4) (s : State) : (configureOnce pol strat dcnt s).cfgDone = true := rfl
@[simp] theorem configureOnce_ubFault (pol : Polarity) (strat : Strategy) (dcnt : BitVec 4) (s : State) : (configureOnce pol strat dcnt s).ubFault = s.ubFault := rfl
@[simp] theorem configureOnce_polarity (pol : Polarity) (strat : Strategy) (dcnt : BitVec 4) (s : State) : (configureOnce pol strat dcnt s).polarity = pol := rfl
@[simp] theorem configureOnce_digOnLvl (pol : Polarity) (strat : Strategy) (dcnt : BitVec 4) (s : State) : (configureOnce pol strat dcnt s).digOnLvl = digOnLevel pol := rfl
@[simp] theorem configureOnce_segOnLvl (pol : Polarity) (strat : Strategy) (dcnt : BitVec 4) (s : State) : (configureOnce pol strat dcnt s).segOnLvl = segOnLevel pol := rfl
@[simp] theorem configureOnce_strategy (pol : Polarity) (strat : Strategy) (dcnt : BitVec 4) (s : State) : (configureOnce pol strat dcnt s).strategy = strat := rfl
@[simp] theorem configureOnce_digitCount (pol : Polarity) (strat : Strategy) (dcnt : BitVec 4) (s : State) : (configureOnce pol strat dcnt s).digitCount = configuredCount s.params dcnt := rfl
@[simp] theorem configureOnce_mask (pol : Polarity) (strat : Strategy) (dcnt : BitVec 4) (s : State) : (configureOnce pol strat dcnt s).mask = blankMasks s := rfl
@[simp] theorem configureOnce_onTime (pol : Polarity) (strat : Strategy) (dcnt : BitVec 4) (s : State) : (configureOnce pol strat dcnt s).onTime = s.onTime := rfl
@[simp] theorem configureOnce_skip (pol : Polarity) (strat : Strategy) (dcnt : BitVec 4) (s : State) : (configureOnce pol strat dcnt s).skip = s.skip := rfl
@[simp] theorem configureOnce_pos (pol : Polarity) (strat : Strategy) (dcnt : BitVec 4) (s : State) : (configureOnce pol strat dcnt s).pos = 0#9 := rfl
@[simp] theorem configureOnce_seq (pol : Polarity) (strat : Strategy) (dcnt : BitVec 4) (s : State) : (configureOnce pol strat dcnt s).seq = s.seq := rfl
@[simp] theorem configureOnce_seqMode (pol : Polarity) (strat : Strategy) (dcnt : BitVec 4) (s : State) : (configureOnce pol strat dcnt s).seqMode = s.seqMode := rfl
@[simp] theorem configureOnce_curSeg (pol : Polarity) (strat : Strategy) (dcnt : BitVec 4) (s : State) : (configureOnce pol strat dcnt s).curSeg = s.curSeg := rfl
@[simp] theorem configureOnce_holdCnt (pol : Polarity) (strat : Strategy) (dcnt : BitVec 4) (s : State) : (configureOnce pol strat dcnt s).holdCnt = s.holdCnt := rfl
@[simp] theorem configureOnce_sweepT (pol : Polarity) (strat : Strategy) (dcnt : BitVec 4) (s : State) : (configureOnce pol strat dcnt s).sweepT = s.sweepT := rfl
@[simp] theorem configureOnce_segAct (pol : Polarity) (strat : Strategy) (dcnt : BitVec 4) (s : State) : (configureOnce pol strat dcnt s).segAct = 0#8 := rfl
@[simp] theorem configureOnce_digAct (pol : Polarity) (strat : Strategy) (dcnt : BitVec 4) (s : State) : (configureOnce pol strat dcnt s).digAct = 0#8 := rfl
@[simp] theorem configureOnce_inputs (pol : Polarity) (strat : Strategy) (dcnt : BitVec 4) (s : State) : (configureOnce pol strat dcnt s).inputs = s.inputs := rfl
@[simp] theorem configureOnce_freeCount (pol : Polarity) (strat : Strategy) (dcnt : BitVec 4) (s : State) : (configureOnce pol strat dcnt s).freeCount = s.freeCount := rfl

/-! ### resetEdge -/

@[simp] theorem resetEdge_params (s : State) : (resetEdge s).params = s.params := rfl
@[simp] theorem resetEdge_cfgDone (s : State) : (resetEdge s).cfgDone = false := rfl
@[simp] theorem resetEdge_ubFault (s : State) : (resetEdge s).ubFault = false := rfl
@[simp] theorem resetEdge_polarity (s : State) : (resetEdge s).polarity = .commonCathode := rfl
@[simp] theorem resetEdge_digOnLvl (s : State) : (resetEdge s).digOnLvl = false := rfl
@[simp] theorem resetEdge_segOnLvl (s : State) : (resetEdge s).segOnLvl = false := rfl
@[simp] theorem resetEdge_strategy (s : State) : (resetEdge s).strategy = .sweep := rfl
@[simp] theorem resetEdge_digitCount (s : State) : (resetEdge s).digitCount = 0#4 := rfl
@[simp] theorem resetEdge_mask (s : State) : (resetEdge s).mask = [] := rfl
@[simp] theorem resetEdge_onTime (s : State) : (resetEdge s).onTime = BitVec.ofNat 16 s.params.onTimeMax := rfl
@[simp] theorem resetEdge_skip (s : State) : (resetEdge s).skip = 0#8 := rfl
@[simp] theorem resetEdge_pos (s : State) : (resetEdge s).pos = 0#9 := rfl
@[simp] theorem resetEdge_seq (s : State) : (resetEdge s).seq = .idle := rfl
@[simp] theorem resetEdge_seqMode (s : State) : (resetEdge s).seqMode = .sweep := rfl
@[simp] theorem resetEdge_curSeg (s : State) : (resetEdge s).curSeg = 0#3 := rfl
@[simp] theorem resetEdge_holdCnt (s : State) : (resetEdge s).holdCnt = 0#32 := rfl
@[simp] theorem resetEdge_sweepT (s : State) : (resetEdge s).sweepT = 0#16 := rfl
@[simp] theorem resetEdge_segAct (s : State) : (resetEdge s).segAct = 0#8 := rfl
@[simp] theorem resetEdge_digAct (s : State) : (resetEdge s).digAct = 0#8 := rfl
@[simp] theorem resetEdge_inputs (s : State) : (resetEdge s).inputs = s.inputs := rfl
@[simp] theorem resetEdge_freeCount (s : State) : (resetEdge s).freeCount = s.freeCount := rfl

/-! ### faultedState -/

@[simp] theorem faultedState_params (s : State) : (faultedState s).params = s.params := rfl
@[simp] theorem faultedState_ubFault (s : State) : (faultedState s).ubFault = true := rfl
@[simp] theorem faultedState_inputs (s : State) : (faultedState s).inputs = s.inputs := rfl
@[simp] theorem faultedState_freeCount (s : State) : (faultedState s).freeCount = s.freeCount + 1 := rfl

/-! ### The micro-operations that read the mode: digOnOp and segOffOp -/

@[simp] theorem digOnOp_params (s : State) : (digOnOp s).params = s.params := by
  unfold digOnOp; split <;> (try split) <;> rfl
@[simp] theorem digOnOp_cfgDone (s : State) : (digOnOp s).cfgDone = s.cfgDone := by
  unfold digOnOp; split <;> (try split) <;> rfl
@[simp] theorem digOnOp_ubFault (s : State) : (digOnOp s).ubFault = s.ubFault := by
  unfold digOnOp; split <;> (try split) <;> rfl
@[simp] theorem digOnOp_polarity (s : State) : (digOnOp s).polarity = s.polarity := by
  unfold digOnOp; split <;> (try split) <;> rfl
@[simp] theorem digOnOp_digOnLvl (s : State) : (digOnOp s).digOnLvl = s.digOnLvl := by
  unfold digOnOp; split <;> (try split) <;> rfl
@[simp] theorem digOnOp_segOnLvl (s : State) : (digOnOp s).segOnLvl = s.segOnLvl := by
  unfold digOnOp; split <;> (try split) <;> rfl
@[simp] theorem digOnOp_strategy (s : State) : (digOnOp s).strategy = s.strategy := by
  unfold digOnOp; split <;> (try split) <;> rfl
@[simp] theorem digOnOp_digitCount (s : State) : (digOnOp s).digitCount = s.digitCount := by
  unfold digOnOp; split <;> (try split) <;> rfl
@[simp] theorem digOnOp_mask (s : State) : (digOnOp s).mask = s.mask := by
  unfold digOnOp; split <;> (try split) <;> rfl
@[simp] theorem digOnOp_onTime (s : State) : (digOnOp s).onTime = s.onTime := by
  unfold digOnOp; split <;> (try split) <;> rfl
@[simp] theorem digOnOp_skip (s : State) : (digOnOp s).skip = s.skip := by
  unfold digOnOp; split <;> (try split) <;> rfl
@[simp] theorem digOnOp_pos (s : State) : (digOnOp s).pos = s.pos := by
  unfold digOnOp; split <;> (try split) <;> rfl
@[simp] theorem digOnOp_seqMode (s : State) : (digOnOp s).seqMode = s.seqMode := by
  unfold digOnOp; split <;> (try split) <;> rfl
@[simp] theorem digOnOp_curSeg (s : State) : (digOnOp s).curSeg = s.curSeg := by
  unfold digOnOp; split <;> (try split) <;> rfl
@[simp] theorem digOnOp_sweepT (s : State) : (digOnOp s).sweepT = s.sweepT := by
  unfold digOnOp; split <;> (try split) <;> rfl
@[simp] theorem digOnOp_segAct (s : State) : (digOnOp s).segAct = s.segAct := by
  unfold digOnOp; split <;> (try split) <;> rfl
@[simp] theorem digOnOp_inputs (s : State) : (digOnOp s).inputs = s.inputs := by
  unfold digOnOp; split <;> (try split) <;> rfl
@[simp] theorem digOnOp_freeCount (s : State) : (digOnOp s).freeCount = s.freeCount := by
  unfold digOnOp; split <;> (try split) <;> rfl
@[simp] theorem segOffOp_params (s : State) : (segOffOp s).params = s.params := by
  unfold segOffOp; split <;> (try split) <;> rfl
@[simp] theorem segOffOp_cfgDone (s : State) : (segOffOp s).cfgDone = s.cfgDone := by
  unfold segOffOp; split <;> (try split) <;> rfl
@[simp] theorem segOffOp_ubFault (s : State) : (segOffOp s).ubFault = s.ubFault := by
  unfold segOffOp; split <;> (try split) <;> rfl
@[simp] theorem segOffOp_polarity (s : State) : (segOffOp s).polarity = s.polarity := by
  unfold segOffOp; split <;> (try split) <;> rfl
@[simp] theorem segOffOp_digOnLvl (s : State) : (segOffOp s).digOnLvl = s.digOnLvl := by
  unfold segOffOp; split <;> (try split) <;> rfl
@[simp] theorem segOffOp_segOnLvl (s : State) : (segOffOp s).segOnLvl = s.segOnLvl := by
  unfold segOffOp; split <;> (try split) <;> rfl
@[simp] theorem segOffOp_strategy (s : State) : (segOffOp s).strategy = s.strategy := by
  unfold segOffOp; split <;> (try split) <;> rfl
@[simp] theorem segOffOp_digitCount (s : State) : (segOffOp s).digitCount = s.digitCount := by
  unfold segOffOp; split <;> (try split) <;> rfl
@[simp] theorem segOffOp_mask (s : State) : (segOffOp s).mask = s.mask := by
  unfold segOffOp; split <;> (try split) <;> rfl
@[simp] theorem segOffOp_onTime (s : State) : (segOffOp s).onTime = s.onTime := by
  unfold segOffOp; split <;> (try split) <;> rfl
@[simp] theorem segOffOp_skip (s : State) : (segOffOp s).skip = s.skip := by
  unfold segOffOp; split <;> (try split) <;> rfl
@[simp] theorem segOffOp_pos (s : State) : (segOffOp s).pos = s.pos := by
  unfold segOffOp; split <;> (try split) <;> rfl
@[simp] theorem segOffOp_seqMode (s : State) : (segOffOp s).seqMode = s.seqMode := by
  unfold segOffOp; split <;> (try split) <;> rfl
@[simp] theorem segOffOp_holdCnt (s : State) : (segOffOp s).holdCnt = s.holdCnt := by
  unfold segOffOp; split <;> (try split) <;> rfl
@[simp] theorem segOffOp_sweepT (s : State) : (segOffOp s).sweepT = s.sweepT := by
  unfold segOffOp; split <;> (try split) <;> rfl
@[simp] theorem segOffOp_digAct (s : State) : (segOffOp s).digAct = s.digAct := by
  unfold segOffOp; split <;> (try split) <;> rfl
@[simp] theorem segOffOp_inputs (s : State) : (segOffOp s).inputs = s.inputs := by
  unfold segOffOp; split <;> (try split) <;> rfl
@[simp] theorem segOffOp_freeCount (s : State) : (segOffOp s).freeCount = s.freeCount := by
  unfold segOffOp; split <;> (try split) <;> rfl
@[simp] theorem digOnOp_digAct (s : State) : (digOnOp s).digAct = litDigits s := by
  unfold digOnOp; split <;> rfl
@[simp] theorem segOffOp_segAct (s : State) : (segOffOp s).segAct = s.segAct &&& ~~~lineBit (phase s) := by
  unfold segOffOp; split <;> (try split) <;> rfl

end Sys2Proof.Machine
end

