-- ==== Sys2Proof/Laws/Step.lean ====
section
/-! SUPPORT. What an edge and a command can do, said once: the inversion lemmas of `step` and `exec` (R131). -/

namespace Sys2Proof.Machine

/-- If an edge answers a next state, one of the four moves of R131 was made. -/
theorem step_next_cases {s t : State} (h : step s = .next t) :
    s.params.valid = true ∧
    (((edgeNow s).rst = true ∧ t = resetEdge (afterInputs s)) ∨
     ((edgeNow s).rst = false ∧ s.ubFault = false ∧ s.seq = .idle ∧ (edgeNow s).cmdValid = true ∧
        exec (decode (edgeNow s).cmdData) (afterInputs s) = .next t) ∨
     ((edgeNow s).rst = false ∧ s.ubFault = false ∧ s.seq = .idle ∧ (edgeNow s).cmdValid = false ∧ t = afterInputs s) ∨
     ((edgeNow s).rst = false ∧ s.ubFault = false ∧ s.seq ≠ .idle ∧ t = microStep (afterInputs s))) := by
  simp only [step, edge] at h
  split at h
  · cases h
  · rename_i hv
    refine ⟨by simpa using hv, ?_⟩
    split at h
    · rename_i hr
      exact .inl ⟨hr, by simpa using h.symm⟩
    · rename_i hr
      split at h
      · cases h
      · rename_i hu
        split at h
        · rename_i hi
          split at h
          · rename_i hc
            exact .inr (.inl ⟨by simpa using hr, by simpa using hu, hi, hc, h⟩)
          · rename_i hc
            exact .inr (.inr (.inl ⟨by simpa using hr, by simpa using hu, hi, by simpa using hc, by simpa using h.symm⟩))
        · rename_i hi
          exact .inr (.inr (.inr ⟨by simpa using hr, by simpa using hu, hi, by simpa using h.symm⟩))

/-- An edge with `rst = 1` (R220). -/
theorem step_of_rst {s : State} (hv : s.params.valid = true) (hr : (edgeNow s).rst = true) :
    step s = .next (resetEdge (afterInputs s)) := by simp [step, edge, hv, hr]

/-- An edge at which a command is accepted (R34, R131). -/
theorem step_of_command {s : State} (hv : s.params.valid = true) (hr : (edgeNow s).rst = false) (hu : s.ubFault = false)
    (hi : s.seq = .idle) (hc : (edgeNow s).cmdValid = true) :
    step s = exec (decode (edgeNow s).cmdData) (afterInputs s) := by simp [step, edge, hv, hr, hu, hi, hc]

/-- An edge at which nothing happens (R131). -/
theorem step_of_quiescent {s : State} (hv : s.params.valid = true) (hr : (edgeNow s).rst = false) (hu : s.ubFault = false)
    (hi : s.seq = .idle) (hc : (edgeNow s).cmdValid = false) : step s = .next (afterInputs s) := by
  simp [step, edge, hv, hr, hu, hi, hc]

/-- An edge at which the pending micro-operation runs (R131). -/
theorem step_of_busy {s : State} (hv : s.params.valid = true) (hr : (edgeNow s).rst = false) (hu : s.ubFault = false)
    (hi : s.seq ≠ .idle) : step s = .next (microStep (afterInputs s)) := by simp [step, edge, hv, hr, hu, hi]

/-! ### The commands, one equation each -/

theorem exec_nop (s : State) : exec .nop s = .next s := rfl

theorem exec_reserved (op : BitVec 4) (s : State) : exec (.reserved op) s = .next s := rfl

theorem exec_configure_first (pol : Polarity) (strat : Strategy) (dcnt : BitVec 4) {s : State} (h : s.cfgDone = false) :
    exec (.configure pol strat dcnt) s = .next (configureOnce pol strat dcnt s) := by simp [exec, execConfigure, h]

theorem exec_configure_again (pol : Polarity) (strat : Strategy) (dcnt : BitVec 4) {s : State} (h : s.cfgDone = true) :
    exec (.configure pol strat dcnt) s = .fault (.reconfigureUndefined (faultedState s)) := by
  simp [exec, execConfigure, raiseReconfigureUndefined, h]

/-- A command that reaches a next state with `cfg_done = 0` and is no CONFIGURE does nothing (R185). -/
theorem exec_unconfigured {i : Instr} {s : State} (h : s.cfgDone = false) (hi : ∀ pol strat dcnt, i ≠ .configure pol strat dcnt) :
    exec i s = .next s := by
  cases i with
  | configure pol strat dcnt => exact absurd rfl (hi pol strat dcnt)
  | nop => rfl
  | reserved op => rfl
  | setDigit pos sym => simp [exec, execSetDigit, h]
  | setDigits cnt y0 y1 y2 y3 y4 y5 y6 y7 => simp [exec, execSetDigits, h]
  | setBrightness val => simp [exec, execSetBrightness, h]
  | refresh => simp [exec, execRefresh, h]
  | refreshT ot => simp [exec, execRefreshT, h]
  | advanceStep => simp [exec, execAdvanceStep, h]
  | setNumber sgn dp val => simp [exec, execSetNumber, h]

/-- A command answers a next state, or it is a CONFIGURE of a configured block and faults (R181, R200). -/
theorem exec_outcome (i : Instr) (s : State) :
    (∃ t, exec i s = .next t) ∨
      (s.cfgDone = true ∧ (∃ pol strat dcnt, i = .configure pol strat dcnt) ∧
        exec i s = .fault (.reconfigureUndefined (faultedState s))) := by
  cases i with
  | configure pol strat dcnt =>
    cases h : s.cfgDone with
    | false => exact .inl ⟨_, exec_configure_first pol strat dcnt h⟩
    | true => exact .inr ⟨rfl, ⟨pol, strat, dcnt, rfl⟩, exec_configure_again pol strat dcnt h⟩
  | nop => exact .inl ⟨_, rfl⟩
  | reserved op => exact .inl ⟨_, rfl⟩
  | setDigit pos sym => exact .inl ⟨_, rfl⟩
  | setDigits cnt y0 y1 y2 y3 y4 y5 y6 y7 => exact .inl ⟨_, rfl⟩
  | setBrightness val => exact .inl ⟨_, rfl⟩
  | refresh => exact .inl ⟨_, rfl⟩
  | refreshT ot => exact .inl ⟨_, rfl⟩
  | advanceStep => exact .inl ⟨_, rfl⟩
  | setNumber sgn dp val => exact .inl ⟨_, rfl⟩

/-- No command is refused. -/
theorem exec_not_refused (i : Instr) (s : State) (r : Refusal) : exec i s ≠ .refused r := by
  rcases exec_outcome i s with ⟨t, h⟩ | ⟨-, -, h⟩ <;> simp [h]

end Sys2Proof.Machine
end

