-- ==== Sys2Proof/Laws/Run.lean ====
section
/-! SUPPORT. Runs of several edges, and edges without reset (R233, R131). -/

namespace Sys2Proof.Machine

theorem run_zero (s : State) : Sys2Proof.core.run 0 s = .next s := rfl

/-- A run is one edge and then the rest. -/
theorem run_succ_eq (k : Nat) (s : State) :
    Sys2Proof.core.run (k + 1) s = (match step s with
      | .next t => Sys2Proof.core.run k t
      | .fault r => .fault r
      | .refused r => .refused r) := by
  rw [Host.Core.run.eq_2 Sys2Proof.core s k]
  cases h : step s with
  | next t => rw [show Sys2Proof.core.step s = .next t from h]
  | fault r => rw [show Sys2Proof.core.step s = .fault r from h]
  | refused r => rw [show Sys2Proof.core.step s = .refused r from h]

theorem run_succ {s t : State} {r : Result} {k : Nat} (h : step s = .next t) (h2 : Sys2Proof.core.run k t = r) :
    Sys2Proof.core.run (k + 1) s = r := by rw [run_succ_eq, h]; exact h2

/-- Runs compose. -/
theorem run_add {s t : State} {r : Result} {a b : Nat} (h : Sys2Proof.core.run a s = .next t)
    (h2 : Sys2Proof.core.run b t = r) : Sys2Proof.core.run (a + b) s = r := by
  induction a generalizing s with
  | zero =>
    rw [run_zero] at h
    cases h
    simpa using h2
  | succ a ih =>
    rw [run_succ_eq] at h
    rw [Nat.add_right_comm]
    split at h
    · rename_i u hu
      exact run_succ hu (ih h)
    · cases h
    · cases h

/-- Without a reset to come, there is none at the coming edge. -/
theorem noReset_now {s : State} (h : noReset s) : (edgeNow s).rst = false := by
  unfold edgeNow
  cases hi : s.inputs with
  | nil => rfl
  | cons e l => exact h e (by simp [hi])

theorem noReset_afterInputs {s : State} (h : noReset s) : noReset (afterInputs s) :=
  fun e he => h e (List.mem_of_mem_tail he)

end Sys2Proof.Machine
end

