-- ==== Sys2Proof/Tests/Slice0.lean ====
section
/-! SUPPORT. Tests on the spec's own vectors (95_test_vectors.md and the examples of the rules), the WellFormed smoke tests,
and a witness for the hypotheses of every statement that has some. -/

namespace Sys2Proof.Tests

open Sys2Proof Sys2Proof.Machine

set_option synthInstance.maxSize 2000

/-! ### Small states -/

/-- `cfg(cc, sweep, n)` of 95_test_vectors.md. -/
def cfgSweep (n : BitVec 4) : State := configured defaultParams .commonCathode .sweep n []

/-- `cfg(cc, step, n)` of 95_test_vectors.md. -/
def cfgStep (n : BitVec 4) : State := configured defaultParams .commonCathode .step n []

/-- The host presents the word `w` at the coming edge. -/
def presenting (s : State) (w : CmdWord) : State := s.withInputs [EdgeInput.present w]

/-- What is seen of the next state an outcome answers. -/
def seen {α : Type} (f : State → α) (r : Result) : Option α :=
  match r with
  | .next t => some (f t)
  | .fault _ => none
  | .refused _ => none

/-- The masks of the first `n` positions. -/
def masks (n : Nat) (t : State) : List Byte := (List.range n).map (Memory.read t.mask)

/-- A block of one digit with `mask[0] = 0x7F` and a sweep just accepted at on-time `ot`. -/
def sweeping (ot : BitVec 16) : State :=
  startSweep ot { cfgSweep 1#4 with mask := [(0, 0x7F#8)] }

/-- A faulted block: `ub_fault = 1`. -/
def faulted : State := { cfgSweep 4#4 with ubFault := true }

/-! ### WellFormed refuses an ill-formed command, one for each check (R73, R72) -/

theorem test_wf_refuses_brightness_above : ¬(Instr.setBrightness 32768).wf := by decide
theorem test_wf_refuses_brightness_below : ¬(Instr.setBrightness (-32769)).wf := by decide
theorem test_wf_refuses_negative_unsigned_number : ¬(Instr.setNumber false 0#4 (-1)).wf := by decide
theorem test_wf_refuses_large_unsigned_number : ¬(Instr.setNumber false 0#4 4294967296).wf := by decide
theorem test_wf_refuses_large_signed_number : ¬(Instr.setNumber true 0#4 2147483648).wf := by decide
theorem test_wf_refuses_small_signed_number : ¬(Instr.setNumber true 0#4 (-2147483649)).wf := by decide
theorem test_wf_refuses_named_opcode_as_reserved : ¬(Instr.reserved 7#4).wf := by decide

/-! ### Decoding, on words written out from the encodings of R71 (V1 and the examples of R80, R112) -/

theorem test_decode_nop : decode 0x0FFFFFFFFFFFFFFF#64 = .nop := by decide
theorem test_decode_configure : decode 0x1000000000000401#64 = .configure .commonAnode .sweep 4#4 := by decide
theorem test_decode_configure_reserved_bits :
    decode 0x1FFFFFFFFFFFF0F8#64 = .configure .commonCathode .sweep 0#4 := by decide
theorem test_decode_setDigit : decode 0x2000000000000207#64 = .setDigit 2#4 7#5 := by decide
theorem test_decode_setDigits :
    decode 0x3400000000020C41#64 = .setDigits 4#4 1#5 2#5 3#5 4#5 0#5 0#5 0#5 0#5 := by decide
theorem test_decode_setDigits_last_slots :
    decode 0x380000398A418820#64 = .setDigits 8#4 0#5 1#5 2#5 3#5 4#5 5#5 6#5 7#5 := by decide
theorem test_decode_setBrightness : decode 0x400000000000FFFB#64 = .setBrightness (-5) := by decide
theorem test_decode_refresh : decode 0x500000000000FFFF#64 = .refresh := by decide
theorem test_decode_refreshT : decode 0x500000000001FFFF#64 = .refreshT 65535#16 := by decide
theorem test_decode_advanceStep : decode 0x6FFFFFFFFFFFFFFF#64 = .advanceStep := by decide
theorem test_decode_setNumber_signed : decode 0x70000011FFFFFFFF#64 = .setNumber true 1#4 (-1) := by decide
theorem test_decode_setNumber_unsigned : decode 0x7FFFFFE080000000#64 = .setNumber false 0#4 2147483648 := by decide
theorem test_decode_reserved : decode 0x9000000000000123#64 = .reserved 9#4 := by decide

theorem test_encode_setDigits :
    encode (.setDigits 4#4 1#5 2#5 3#5 4#5 0#5 0#5 0#5 0#5) = 0x3400000000020C41#64 := by decide
theorem test_encode_setNumber : encode (.setNumber true 2#4 (-5)) = 0x70000012FFFFFFFB#64 := by decide
theorem test_table_word_short : decodeTableWord 8 0x07 = some .nop := by decide
theorem test_table_word_long : decodeTableWord 72 0 = none := by decide

/-! ### Commands (V2 to V9) -/

theorem test_configure_status :
    seen (fun t => rdReg t 0x00#6) (exec (.configure .nTransistor .step 4#4) State.reset) = some 0x4EA#32 := by decide
theorem test_configure_clamps_the_count :
    seen (fun t => rdReg t 0x00#6) (exec (.configure .commonCathode .sweep 9#4) State.reset) = some 0x882#32 := by decide

theorem test_setDigit_dash : seen (masks 4) (exec (.setDigit 1#4 17#5) (cfgSweep 4#4)) = some [0, 0x40, 0, 0] := by decide
theorem test_setDigit_invalid_symbol :
    seen (masks 2) (exec (.setDigit 0#4 18#5) (sweeping 1#16)) = some [0x7F, 0] := by decide

theorem test_setDigits_skips_an_invalid_lane :
    seen (masks 4) (exec (decode 0x3400000000020E41#64) (cfgSweep 4#4)) = some [0x06, 0x00, 0x4F, 0x66] := by decide
theorem test_setDigits_too_long :
    seen (masks 4) (exec (decode 0x3500000000842108#64) (cfgSweep 4#4)) = some [0, 0, 0, 0] := by decide

theorem test_setNumber_negative_with_point :
    seen (masks 5) (exec (decode 0x70000011FFFFFFFF#64) (cfgSweep 4#4)) = some [0x00, 0x40, 0xBF, 0x06, 0x00] := by decide
theorem test_setNumber_overflow :
    seen (masks 8) (exec (decode 0x7000001080000000#64) (cfgSweep 8#4)) = some (List.replicate 8 0x40) := by decide

theorem test_setBrightness_sweep : seen (·.onTime) (exec (.setBrightness 99) (cfgSweep 4#4)) = some 990#16 := by decide
theorem test_setBrightness_step : seen (·.skip) (exec (.setBrightness 50) (cfgStep 4#4)) = some 205#8 := by decide

theorem test_refresh_busy :
    seen (fun t => (t.seq, t.sweepT, busy t)) (exec .refresh (cfgSweep 4#4)) = some (.segOn, 1000#16, true) := by decide
theorem test_refresh_in_step_mode : seen (·.seq) (exec .refresh (cfgStep 4#4)) = some .idle := by decide
theorem test_refreshT_zero : seen (·.sweepT) (exec (.refreshT 0#16) (cfgSweep 4#4)) = some 1#16 := by decide
theorem test_refreshT_ceiling :
    seen (fun t => (t.sweepT, t.onTime)) (exec (.refreshT 5000#16) { cfgSweep 4#4 with onTime := 500#16 })
      = some (1000#16, 500#16) := by decide
theorem test_advanceStep_segment : seen (·.seq) (exec .advanceStep (cfgStep 4#4)) = some .digOff := by decide
theorem test_advanceStep_dark :
    seen (·.seq) (exec .advanceStep { cfgStep 4#4 with pos := 20#9 }) = some .adv := by decide
theorem test_nop : seen (fun t => decide (t = cfgStep 4#4)) (exec .nop (cfgStep 4#4)) = some true := by decide
theorem test_reserved :
    seen (fun t => decide (t = cfgStep 4#4)) (exec (decode 0xFFFFFFFFFFFFFFFF#64) (cfgStep 4#4)) = some true := by decide

/-- The re-configuration fault of program P4: a fault, and the way out is reset. -/
theorem test_second_configure_faults :
    (match exec (decode 0x1000000000000205#64) (cfgSweep 4#4) with
      | .fault (.reconfigureUndefined a) => (a.ubFault, (rdReg a 0x00#6).getLsbD 2)
      | _ => (false, false)) = (true, true) := by
  simp [exec, decode, execConfigure, raiseReconfigureUndefined, cfgSweep, configured, configureOnce, State.withInputs,
    rdReg, faultedWord, ubFaultBit, faultedState, field]
theorem test_reset_clears_the_fault :
    seen (fun t => rdReg t 0x00#6) (step (faulted.withInputs [EdgeInput.reset])) = some 0x000#32 := by decide

/-! ### The sequencer, one edge each (traces S1, S2, T1) -/

theorem test_segOn : seen (fun t => (t.seq, t.segAct)) (step (sweeping 2#16)) = some (.digOn, 0x01#8) := by decide
theorem test_digOn_holds :
    seen (fun t => (t.seq, t.holdCnt, t.digAct)) (step (segOnOp (sweeping 2#16))) = some (.hold, 1#32, 0x01#8) := by decide
theorem test_digOn_no_hold :
    seen (fun t => (t.seq, t.holdCnt)) (step (segOnOp (sweeping 1#16))) = some (.digOff, 0#32) := by decide
theorem test_digOn_read_port :
    seen (fun t => (rdReg t 0x05#6, rdReg t 0x06#6, rdReg t 0x04#6)) (step (segOnOp (sweeping 2#16)))
      = some (0x00020003#32, 0x00000001#32, 0x00000101#32) := by decide
theorem test_hold_ends :
    seen (fun t => (t.seq, t.holdCnt)) (step (digOnOp (segOnOp (sweeping 2#16)))) = some (.digOff, 0#32) := by decide
theorem test_digOff :
    seen (fun t => (t.seq, t.digAct, t.segAct)) (step (digOnOp (segOnOp (sweeping 1#16)))) = some (.segOff, 0#8, 0x01#8) := by
  decide
theorem test_segOff_next_phase :
    seen (fun t => (t.seq, t.curSeg, t.segAct)) (step { sweeping 1#16 with seq := .segOff, segAct := 0x01#8 })
      = some (.segOn, 1#3, 0#8) := by decide
theorem test_segOff_last_phase :
    seen (fun t => (t.seq, t.curSeg, t.segAct)) (step { sweeping 1#16 with seq := .segOff, curSeg := 7#3, segAct := 0x80#8 })
      = some (.idle, 0#3, 0#8) := by decide
theorem test_adv_into_the_dark :
    seen (fun t => (t.seq, t.pos)) (step { cfgStep 1#4 with seq := .adv, seqMode := .step, pos := 7#9, skip := 1#8 })
      = some (.idle, 8#9) := by decide
theorem test_adv_after_skip_was_lowered :
    seen (fun t => (t.seq, t.pos)) (step { cfgStep 1#4 with seq := .adv, seqMode := .step, pos := 20#9 })
      = some (.segOn, 5#9) := by decide
theorem test_busy_accepts_no_command :
    seen (·.seq) (step (presenting (sweeping 2#16) 0x1000000000000205#64)) = some .digOn := by decide
theorem test_reset_beats_a_command :
    seen (fun t => t.cfgDone)
      (step (State.reset.withInputs [{ EdgeInput.present 0x1000000000000400#64 with rst := true }])) = some false := by decide

/-! ### The lines (V2, W8) -/

theorem test_common_anode_lines :
    seen (fun t => (segLine t 0, digLine t 3, digLine t 4)) (exec (.configure .commonAnode .sweep 4#4) State.reset)
      = some (some true, some false, none) := by decide
theorem test_reset_lines_are_high_impedance : (segLine State.reset 0, digLine State.reset 0) = (none, none) := by decide

/-! ### The assembler (R78, R79, programs P2, P3) -/

/-- The line `setdigits 2, (%A, %b)`, with braces for the round brackets. -/
def setDigitsLine : List Char :=
  "setdigits 2, ".toList ++ [openBrace] ++ "%A, %b".toList ++ [closeBrace] ++ "   ; P2".toList

theorem test_assemble_setdigits : assembleLine setDigitsLine = some [0x320000000000016A#64] := by decide
theorem test_assemble_raw_word : assembleLine ".word 0x9000000000000123".toList = some [0x9000000000000123#64] := by decide
theorem test_assemble_showhex : assembleLine "showhex 3, 0x2A".toList = some [0x200000000000030A#64] := by decide
theorem test_assemble_refuses_out_of_range : assembleLine "setbright 40000".toList = none := by decide

/-! ### Fetching the opcode-table word -/

theorem test_withFetchWord_runs_it :
    seen (fun t => (t.cfgDone, t.digitCount)) (step (State.reset.withFetchWord 64 0x1000000000000400)) = some (true, 4#4) := by
  decide

/-! ### Witnesses: states and operands that meet the hypotheses of the statements -/

theorem reset_meets_the_invariant : State.reset.Inv := by decide
theorem cfgSweep_meets_the_invariant : (cfgSweep 4#4).Inv := by decide
theorem cfgStep_meets_the_invariant : (cfgStep 4#4).Inv := by decide
theorem sweeping_meets_the_invariant : (sweeping 2#16).Inv := by decide

theorem witness_DecodeOfEncodeIsTheCommand : (Instr.setNumber true 15#4 (-2147483648)).wf := by decide

theorem witness_ReservedBitsAreIgnored :
    0x2000000000000207#64 &&& formatBits 0x2000000000000207#64 = 0x2FFFFFFFFFFFF2E7#64 &&& formatBits 0x2000000000000207#64 ∧
    0x5000000000000000#64 &&& formatBits 0x5000000000000000#64 = 0x500000000000FFFF#64 &&& formatBits 0x5000000000000000#64 := by
  decide

theorem witness_EveryWordIsAWellFormedCommand : 8 ≤ opcode 0x8000000000000000#64 := by decide

/-- One word of each opcode, both REFRESH forms. -/
theorem witness_DecoderReadsEachFieldAtItsPlace :
    (List.range 16).map (fun n => opcode (BitVec.ofNat 64 (n * 2 ^ 60))) = List.range 16 ∧
    (0x5000000000000000#64).getLsbD 16 = false ∧ (0x5000000000010000#64).getLsbD 16 = true := by decide

theorem witness_EncodingFunctionInvertsTheDecoder :
    opcode 0x3F0000FFFFFFFFFF#64 < 8 ∧ opcode 0x70000011FFFFFFFB#64 < 8 ∧
    0x3F0000FFFFFFFFFF#64 &&& formatBits 0x3F0000FFFFFFFFFF#64 = 0x3F0000FFFFFFFFFF#64 ∧
    0x70000011FFFFFFFB#64 &&& formatBits 0x70000011FFFFFFFB#64 = 0x70000011FFFFFFFB#64 := by decide

theorem witness_StepRunsTheDecodedCommand :
    let s := presenting (cfgSweep 4#4) 0x2000000000000207#64
    s.params.valid = true ∧ s.inputs = [EdgeInput.present 0x2000000000000207#64] ∧
      (EdgeInput.present 0x2000000000000207#64).rst = false ∧ s.ubFault = false ∧ s.seq = .idle ∧
      (EdgeInput.present 0x2000000000000207#64).cmdValid = true := by decide

/-- One state for each clause of the order of an edge. -/
theorem witness_EdgeChoosesInOrder :
    (edgeNow (State.reset.withInputs [EdgeInput.reset])).rst = true ∧
    ((edgeNow faulted).rst = false ∧ faulted.ubFault = true ∧ faulted.params.valid = true) ∧
    ((edgeNow (presenting State.reset 0#64)).rst = false ∧ State.reset.ubFault = false ∧ State.reset.seq = .idle ∧
      (edgeNow (presenting State.reset 0#64)).cmdValid = true) ∧
    ((edgeNow State.reset).rst = false ∧ (edgeNow State.reset).cmdValid = false ∧ State.reset.params.valid = true) ∧
    ((edgeNow (sweeping 1#16)).rst = false ∧ (sweeping 1#16).ubFault = false ∧ (sweeping 1#16).seq ≠ .idle) := by decide

theorem witness_ResetLoadsEveryRegister :
    ((sweeping 1#16).withInputs [EdgeInput.reset]).ubFault = false ∧
      (edgeNow ((sweeping 1#16).withInputs [EdgeInput.reset])).rst = true ∧
    (faulted.withInputs [EdgeInput.reset]).params.valid = true ∧
      (edgeNow (faulted.withInputs [EdgeInput.reset])).rst = true := by decide

theorem witness_BusyBlockIgnoresTheCommandPort : (sweeping 1#16).seq ≠ .idle := by decide

/-- Both ways to a fault, and a set of parameters for each side of the refusal. -/
theorem witness_OnlyReconfigurationFaults :
    (faulted.params.valid = true ∧ (edgeNow faulted).rst = false ∧ faulted.ubFault = true) ∧
    (let s := presenting (cfgSweep 4#4) 0x1000000000000205#64
     s.params.valid = true ∧ (edgeNow s).rst = false ∧ s.seq = .idle ∧ (edgeNow s).cmdValid = true ∧
      opcode (edgeNow s).cmdData = 1 ∧ s.cfgDone = true) := by decide

theorem witness_ExactlyBadParameterSetsAreRefused :
    State.reset.params.valid = true ∧
    (State.resetWith { defaultParams with maxDigits := 9 }).params.valid = false ∧
    (State.resetWith { defaultParams with onTimeMax := 65535, cyclesPerUs := 65537 }).params.valid = true ∧
    (State.resetWith { defaultParams with onTimeMax := 65535, cyclesPerUs := 65538 }).params.valid = false := by decide

theorem witness_ResetStateMeetsTheInvariant : ({ defaultParams with maxDigits := 1, cyclesPerUs := 7 } : Params).valid = true := by
  decide

theorem witness_StepKeepsTheInvariant :
    (sweeping 2#16).Inv ∧ ∃ t, step (sweeping 2#16) = .next t :=
  ⟨by decide, _, step_of_busy (by decide) (by decide) (by decide) (by decide)⟩

/-- A reset block whose host presents the given words, edge by edge. -/
def fed (l : List CmdWord) : State := State.resetWith defaultParams |>.withInputs (l.map EdgeInput.present)

theorem fed_reachable (l : List CmdWord) : Reachable (fed l) :=
  Reachable.start defaultParams (by decide) (l.map EdgeInput.present) 0

/-- A block in a sweep with segment line 0 just asserted: reached by CONFIGURE, REFRESH and SEG_ON. -/
theorem sweep_reachable :
    Reachable (segOnOp (afterInputs (startSweep 1000#16 (afterInputs (configureOnce .commonCathode .sweep 4#4
      (afterInputs (fed [0x1000000000000400#64, 0x5000000000000000#64]))))))) := by
  have h1 : step (fed [0x1000000000000400#64, 0x5000000000000000#64]) = .next (configureOnce .commonCathode .sweep 4#4
      (afterInputs (fed [0x1000000000000400#64, 0x5000000000000000#64]))) := by
    rw [step_of_command (by decide) (by decide) (by decide) (by decide) (by decide)]
    exact exec_configure_first .commonCathode .sweep 4#4 (by decide)
  have r1 := Reachable.edge _ _ (fed_reachable _) h1
  have h2 := step_of_command (s := configureOnce .commonCathode .sweep 4#4
    (afterInputs (fed [0x1000000000000400#64, 0x5000000000000000#64]))) (by decide) (by decide) (by decide) (by decide) (by decide)
  have r2 := Reachable.edge _ (startSweep 1000#16 (afterInputs (configureOnce .commonCathode .sweep 4#4
    (afterInputs (fed [0x1000000000000400#64, 0x5000000000000000#64]))))) r1 (h2.trans rfl)
  exact Reachable.edge _ _ r2 (step_of_busy (by decide) (by decide) (by decide) (by decide))

/-- For `BrightnessRegistersStayInRange` too. -/
theorem witness_ReachableStatesMeetTheInvariant : Reachable State.reset := fed_reachable []

theorem witness_AtMostOneSegmentLine :
    ∃ s, Reachable s ∧ s.ubFault = false ∧ s.segAct.getLsbD 0 = true := ⟨_, sweep_reachable, by decide, by decide⟩

theorem witness_DigitsAreOffBeforeASegmentGoesOn : ∃ s, Reachable s ∧ s.seq = .segOn := by
  have h1 : step (fed [0x1000000000000400#64, 0x5000000000000000#64]) = .next (configureOnce .commonCathode .sweep 4#4
      (afterInputs (fed [0x1000000000000400#64, 0x5000000000000000#64]))) := by
    rw [step_of_command (by decide) (by decide) (by decide) (by decide) (by decide)]
    exact exec_configure_first .commonCathode .sweep 4#4 (by decide)
  have h2 := step_of_command (s := configureOnce .commonCathode .sweep 4#4
    (afterInputs (fed [0x1000000000000400#64, 0x5000000000000000#64]))) (by decide) (by decide) (by decide) (by decide) (by decide)
  exact ⟨startSweep 1000#16 (afterInputs (configureOnce .commonCathode .sweep 4#4
    (afterInputs (fed [0x1000000000000400#64, 0x5000000000000000#64])))), Reachable.edge _ _ (Reachable.edge _ _ (fed_reachable _) h1) (h2.trans rfl), rfl⟩

theorem witness_UndeclaredDigitsAreNeverAsserted : Reachable State.reset ∧ State.reset.digitCount.toNat ≤ 0 :=
  ⟨fed_reachable [], by decide⟩

theorem witness_SweepModeIsDarkWhenIdle :
    Reachable State.reset ∧ State.reset.strategy = .sweep ∧ State.reset.seq = .idle := ⟨fed_reachable [], rfl, rfl⟩

theorem witness_StepModeShowsItsPhaseWhenIdle : ∃ s, Reachable s ∧ s.strategy = .step ∧ s.seq = .idle ∧ s.pos.toNat < 8 := by
  have h1 : step (fed [0x1000000000000404#64]) = .next (configureOnce .commonCathode .step 4#4
      (afterInputs (fed [0x1000000000000404#64]))) := by
    rw [step_of_command (by decide) (by decide) (by decide) (by decide) (by decide)]
    exact exec_configure_first .commonCathode .step 4#4 (by decide)
  exact ⟨_, Reachable.edge _ _ (fed_reachable _) h1, rfl, rfl, by decide⟩

theorem witness_UnconfiguredBlockStaysInReset :
    State.reset = resetEdge State.reset ∧ step State.reset = .next (afterInputs State.reset) ∧
      (afterInputs State.reset).cfgDone = false :=
  ⟨rfl, step_of_quiescent (by decide) (by decide) (by decide) (by decide) (by decide), rfl⟩

theorem witness_OnlyMaskCommandsWriteTheMasks :
    seen (fun t => decide (Memory.read t.mask 2 ≠ Memory.read (cfgSweep 4#4).mask 2))
      (step (presenting (cfgSweep 4#4) 0x2000000000000207#64)) = some true := by decide

theorem witness_ConfigurationIsImmutable :
    (sweeping 1#16).cfgDone = true ∧ (edgeNow (sweeping 1#16)).rst = false ∧ ∃ t, step (sweeping 1#16) = .next t :=
  ⟨by decide, by decide, _, step_of_busy (by decide) (by decide) (by decide) (by decide)⟩

/-- One state for each of the two brightness registers. -/
theorem witness_OnlySetBrightnessWritesBrightness :
    seen (fun t => decide (t.onTime ≠ (cfgSweep 4#4).onTime)) (step (presenting (cfgSweep 4#4) 0x4000000000000032#64)) = some true ∧
    seen (fun t => decide (t.skip ≠ (cfgStep 4#4).skip)) (step (presenting (cfgStep 4#4) 0x4000000000000032#64)) = some true := by
  decide

theorem witness_ParametersNeverChange : ∃ t, step (sweeping 1#16) = .next t :=
  ⟨_, step_of_busy (by decide) (by decide) (by decide) (by decide)⟩

theorem witness_SequencerFrame :
    (sweeping 1#16).params.valid = true ∧ (sweeping 1#16).ubFault = false ∧ (edgeNow (sweeping 1#16)).rst = false ∧
      (sweeping 1#16).seq ≠ .idle ∧ (sweeping 1#16).seq ≠ .adv := by decide

theorem witness_ReservedOpcodesExecuteAsNop : 8 ≤ opcode 0x8000000000000000#64 := by decide

theorem witness_CommandsBeforeConfigurationDoNothing :
    State.reset.cfgDone = false ∧ isConfigure (.setDigit 0#4 1#5) = false := by decide

/-- For `PolarityFixesTheLevels` and `ConfigureDrivesDeclaredLinesOff` too. -/
theorem witness_FirstConfigureSetsTheConfiguration :
    State.reset.params.valid = true ∧ Memory.wf State.reset.mask ∧ State.reset.cfgDone = false ∧
      State.reset.ubFault = false ∧ 7 < State.reset.params.maxDigits ∧ State.reset.params.maxDigits ≤ 8 := by decide

theorem witness_SecondConfigureRaisesTheFault : (cfgSweep 4#4).cfgDone = true := by decide

/-- Both clauses: without and with reset. -/
theorem witness_FaultLastsUntilReset :
    faulted.params.valid = true ∧ faulted.ubFault = true ∧ (edgeNow faulted).rst = false ∧
      (edgeNow (faulted.withInputs [EdgeInput.reset])).rst = true := by decide

/-- The last declared position with the last valid symbol, and both ways to no effect. -/
theorem witness_SetDigitWritesOneDeclaredPosition :
    Memory.wf (cfgSweep 4#4).mask ∧ (cfgSweep 4#4).cfgDone = true ∧ 3 < (cfgSweep 4#4).digitCount.toNat ∧ (17#5).toNat ≤ 17 ∧
      ¬4 < (cfgSweep 4#4).digitCount.toNat ∧ ¬(18#5).toNat ≤ 17 := by decide

/-- The longest list that fits, its last lane, and the shortest that does not fit. -/
theorem witness_SetDigitsIsAllOrNothingOnItsLength :
    Memory.wf (cfgSweep 8#4).mask ∧ (cfgSweep 8#4).digitCount.toNat ≤ 8 ∧ (cfgSweep 8#4).cfgDone = true ∧
      (8#4).toNat ≤ (cfgSweep 8#4).digitCount.toNat ∧ [0#5, 1#5, 2#5, 3#5, 4#5, 5#5, 6#5, 18#5][7]? = some 18#5 ∧
      7 < (8#4).toNat ∧ (cfgSweep 8#4).digitCount.toNat < (9#4).toNat := by decide

theorem witness_DecimalDigitsMostSignificantFirst : 0 < 4294967295 := by decide

/-- The largest value that fits four digits, the smallest that does not, and the same with a sign. -/
theorem witness_SetNumberShowsTheDecimalReading :
    (State.reset.Inv ∧ State.reset.cfgDone = false) ∧
      (cfgSweep 4#4).Inv ∧ (cfgSweep 4#4).cfgDone = true ∧ (cfgSweep 4#4).params.hasSetNumber = true ∧
      wfNumber false 9999 ∧ wfNumber true (-999) ∧
      ((9999 : Int).natAbs < 10 ^ ((cfgSweep 4#4).digitCount.toNat - 0) ∧ (3#4).toNat + 1 + 0 ≤ (cfgSweep 4#4).digitCount.toNat) ∧
      ¬(10000 : Int).natAbs < 10 ^ ((cfgSweep 4#4).digitCount.toNat - 0) ∧
      ((-999 : Int).natAbs < 10 ^ ((cfgSweep 4#4).digitCount.toNat - 1) ∧ (2#4).toNat + 1 + 1 ≤ (cfgSweep 4#4).digitCount.toNat) := by
  decide

theorem witness_SetNumberNotBuiltIsNop :
    ({ cfgSweep 4#4 with params := { defaultParams with hasSetNumber := false } } : State).params.hasSetNumber = false := by
  decide

theorem witness_MaskWritesLeaveTheLinesAlone :
    writesMasks (.setDigit 2#4 7#5) = true ∧ ∃ t, exec (.setDigit 2#4 7#5) (cfgSweep 4#4) = .next t := ⟨by decide, _, rfl⟩

/-- The three clauses: unconfigured, SWEEP, STEP. -/
theorem witness_SetBrightnessWritesTheMappedValue :
    State.reset.params.valid = true ∧ State.reset.cfgDone = false ∧
      ((cfgSweep 4#4).cfgDone = true ∧ (cfgSweep 4#4).strategy = .sweep) ∧
      ((cfgStep 4#4).cfgDone = true ∧ (cfgStep 4#4).strategy = .step) := by decide

/-- The spec's parameters, and a set in which neither map is strictly monotonic. -/
theorem witness_BrightnessMapsAreBoundedAndMonotonic :
    defaultParams.valid = true ∧ (-32768 : Int) ≤ 32767 ∧
    (let p := { defaultParams with onTimeMax := 100, skipMax := 254 }
     p.valid = true ∧ (p.onTimeMax : Int) - 1 < 100 ∧ p.skipMax < 255) := by decide

/-- For `RefreshStartsASweep`, `RefreshTClampsItsOnTime` and `AdvanceStepStartsAStep`: both clauses of each, at the last segment
phase and the first dark phase. -/
theorem witness_drive_commands :
    ((cfgSweep 4#4).cfgDone = true ∧ (cfgSweep 4#4).strategy = .sweep ∧ (cfgSweep 4#4).params.valid = true) ∧
    (State.reset.cfgDone = false ∧ (cfgStep 4#4).strategy = .step) ∧
    ((cfgStep 4#4).cfgDone = true ∧ ({ cfgStep 4#4 with pos := 7#9 } : State).pos.toNat < 8 ∧
      8 ≤ ({ cfgStep 4#4 with pos := 8#9 } : State).pos.toNat) := by decide

/-- For `SegOnAssertsThePhaseLine`, `DigOnShowsTheMasks`, `HoldCountsDown`, `DigOffDeassertsEveryDigit` and `SegOffEndsThePhase`: a
state at each micro-operation of a sweep, with the invariant and no reset at the coming edge: SEG_ON, DIG_ON with and
without a hold, HOLD going on and ending, DIG_OFF, and SEG_OFF before the last phase. -/
theorem witness_sweep_micro_operations :
    ((sweeping 2#16).Inv ∧ (sweeping 2#16).seq = .segOn ∧ (edgeNow (sweeping 2#16)).rst = false) ∧
    (let s := segOnOp (sweeping 2#16)
     s.Inv ∧ (edgeNow s).rst = false ∧ s.seq = .digOn ∧ s.seqMode = .sweep ∧ s.sweepT.toNat * s.params.cyclesPerUs ≠ 1) ∧
    (let s := segOnOp (sweeping 1#16)
     s.Inv ∧ (edgeNow s).rst = false ∧ s.seq = .digOn ∧ s.sweepT.toNat * s.params.cyclesPerUs = 1) ∧
    (let s := digOnOp (segOnOp (sweeping 3#16))
     s.Inv ∧ (edgeNow s).rst = false ∧ s.seq = .hold ∧ s.holdCnt.toNat ≠ 1) ∧
    (let s := digOnOp (segOnOp (sweeping 2#16))
     s.Inv ∧ (edgeNow s).rst = false ∧ s.seq = .hold ∧ s.holdCnt.toNat = 1) ∧
    (let s := digOnOp (segOnOp (sweeping 1#16))
     s.Inv ∧ (edgeNow s).rst = false ∧ s.seq = .digOff) ∧
    (let s := digOffOp (digOnOp (segOnOp (sweeping 1#16)))
     s.Inv ∧ (edgeNow s).rst = false ∧ s.seq = .segOff ∧ s.seqMode = .sweep ∧ s.curSeg.toNat < 7) :=
  ⟨by decide, by decide, by decide, by decide, by decide, by decide, by decide⟩

/-- For `SegOffEndsThePhase`: the last phase of a sweep. -/
theorem witness_last_phase :
    let s : State := { sweeping 1#16 with seq := .segOff, curSeg := 7#3, segAct := 0x80#8 }
    s.Inv ∧ (edgeNow s).rst = false ∧ s.seq = .segOff ∧ s.seqMode = .sweep ∧ s.curSeg.toNat = 7 := by decide

/-- For the same statements and `AdvWrapsAtTheStretchedPeriod`: a state at each micro-operation of a step, with the invariant. -/
theorem witness_step_micro_operations :
    (let s : State := { cfgStep 4#4 with seqMode := .step, seq := .digOff }
     s.Inv ∧ (edgeNow s).rst = false ∧ s.seq = .digOff) ∧
    (let s : State := { cfgStep 4#4 with seqMode := .step, seq := .segOff }
     s.Inv ∧ (edgeNow s).rst = false ∧ s.seq = .segOff ∧ s.seqMode = .step) ∧
    (let s : State := { cfgStep 4#4 with seqMode := .step, seq := .adv, pos := 262#9 }
     s.Inv ∧ s.seq = .adv ∧ s.params.valid = true ∧ s.ubFault = false ∧ (edgeNow s).rst = false) ∧
    (let s : State := { cfgStep 4#4 with seqMode := .step, seq := .segOn, pos := 7#9 }
     s.Inv ∧ (edgeNow s).rst = false ∧ s.seq = .segOn) ∧
    (let s : State := { cfgStep 4#4 with seqMode := .step, seq := .digOn, pos := 7#9, segAct := 0x80#8 }
     s.Inv ∧ (edgeNow s).rst = false ∧ s.seq = .digOn ∧ s.seqMode = .step) := by decide

theorem witness_HoldLastsExactlyTheOnTime :
    (segOnOp (sweeping 2#16)).Inv ∧ noReset (segOnOp (sweeping 2#16)) ∧ (segOnOp (sweeping 2#16)).seq = .digOn ∧
      (segOnOp (sweeping 2#16)).seqMode = .sweep ∧ 1 ≤ 2 ∧
      2 ≤ (segOnOp (sweeping 2#16)).sweepT.toNat * (segOnOp (sweeping 2#16)).params.cyclesPerUs := by decide

/-- Both commands, REFRESH.T with an operand below and one above its range. -/
theorem witness_SweepRunsItsEightPhases :
    (State.reset.cfgDone = false ∧ (cfgStep 4#4).strategy = .step) ∧
    (∀ w ∈ [0x5000000000000000#64, 0x5000000000010000#64, 0x500000000001FFFF#64],
      let s := presenting (cfgSweep 4#4) w
      s.Inv ∧ s.cfgDone = true ∧ s.strategy = .sweep ∧ s.seq = .idle ∧ noReset s ∧ (edgeNow s).cmdValid = true) ∧
    (let s := presenting (cfgSweep 4#4) 0x5000000000000000#64
     decode (edgeNow s).cmdData = .refresh ∧ 1000 = s.onTime.toNat ∧ 1000 = 1000 * s.params.cyclesPerUs) ∧
    (let s := presenting (cfgSweep 4#4) 0x5000000000010000#64
     decode (edgeNow s).cmdData = .refreshT 0#16 ∧ 1 = max 1 (min (0#16).toNat s.params.onTimeMax) ∧
      1 = 1 * s.params.cyclesPerUs) ∧
    (let s := presenting (cfgSweep 4#4) 0x500000000001FFFF#64
     decode (edgeNow s).cmdData = .refreshT 65535#16 ∧ 1000 = max 1 (min (65535#16).toNat s.params.onTimeMax) ∧
      1000 = 1000 * s.params.cyclesPerUs) := by
  refine ⟨by decide, ?_, by decide, by decide, by decide⟩
  simp only [List.forall_mem_cons, List.not_mem_nil, false_implies, implies_true, and_true]
  exact ⟨by decide, by decide, by decide⟩

/-- A configured block in STEP mode at phase `pos` with `skip` dark phases, an ADVANCE_STEP presented. -/
def stepping (pos : BitVec 9) (skip : BitVec 8) (seg : BitVec 8) : State :=
  { presenting (cfgStep 4#4) 0x6000000000000000#64 with pos := pos, skip := skip, segAct := seg }

/-- The four rows of R232, from and to a segment phase or a dark one: each line gives `n` and the micro-operations. -/
theorem witness_AdvanceStepShowsTheNextPhase :
    (State.reset.cfgDone = false ∧ (cfgSweep 4#4).strategy = .sweep) ∧
    ∀ p ∈ [(stepping 0#9 0#8 0#8, 1, [Seq.digOff, .segOff, .adv, .segOn, .digOn]),
        (stepping 7#9 1#8 0x80#8, 8, [.digOff, .segOff, .adv]), (stepping 8#9 1#8 0#8, 0, [.adv, .segOn, .digOn]),
        (stepping 8#9 2#8 0#8, 9, [.adv])],
      p.1.Inv ∧ p.1.cfgDone = true ∧ p.1.strategy = .step ∧ p.1.seq = .idle ∧ noReset p.1 ∧
        (edgeNow p.1).cmdValid = true ∧ decode (edgeNow p.1).cmdData = .advanceStep ∧
        p.2.1 = (p.1.pos.toNat + 1) % (8 + p.1.skip.toNat) ∧
        p.2.2 = (if p.1.pos.toNat < 8 then [.digOff, .segOff] else []) ++ [.adv]
          ++ (if p.2.1 < 8 then [.segOn, .digOn] else []) := by
  refine ⟨by decide, ?_⟩
  simp only [List.forall_mem_cons, List.not_mem_nil, false_implies, implies_true, and_true]
  exact ⟨by decide, by decide, by decide, by decide⟩

/-- Two steps at the shortest cadence, from the last segment phase into the dark one and on. -/
theorem witness_SteadyStepsWalkTheFrame :
    let step6 := EdgeInput.present 0x6000000000000000#64 :: List.replicate 5 EdgeInput.quiet
    let s := (stepping 7#9 1#8 0x80#8).withInputs (step6 ++ step6)
    s.Inv ∧ s.cfgDone = true ∧ s.strategy = .step ∧ s.seq = .idle ∧ 6 ≤ 6 ∧ steadySteps 6 s.inputs ∧ 1 ≤ 2 ∧
      2 * 6 ≤ s.inputs.length := by decide

/-- For `OutputLevelsFollowTheLineState` and `ReadPortMap`, every address class of the read port: the last register, the gap, the first and last MASK entry, the first address past
them. -/
theorem witness_ports :
    (cfgSweep 4#4).ubFault = false ∧ (cfgSweep 4#4).params.maxDigits ≤ 8 ∧ 7 < (cfgSweep 4#4).params.maxDigits ∧
      (7#6).toNat = 7 ∧ 8 + (cfgSweep 4#4).params.maxDigits ≤ (16#6).toNat := by decide

end Sys2Proof.Tests
end

section
/-! PROOFS. Reset and the read port (R40, R42, R130, R220). -/

namespace Sys2Proof.Machine

/-! ### The outputs of a block that is not faulted -/

/-- No segment line is driven before configuration (R130). -/
theorem segLine_of_unconfigured {s : State} (hu : s.ubFault = false) (hc : s.cfgDone = false) (j : Nat) :
    segLine s j = none := by simp [segLine, segOe, hu, hc]

/-- No digit line is driven before configuration (R130). -/
theorem digLine_of_unconfigured {s : State} (hu : s.ubFault = false) (hc : s.cfgDone = false) (i : Nat) :
    digLine s i = none := by simp [digLine, digOe, hu, hc]

/-- `busy` is `seq ≠ IDLE` (R32). -/
theorem busy_eq {s : State} (hu : s.ubFault = false) : busy s = decide (s.seq ≠ .idle) := by
  simp [busy, sequencerBusy, hu]

/-- `cmd_ready` while `rst = 0` (R34). -/
theorem cmdReady_eq {s : State} (hu : s.ubFault = false) : cmdReady s false = decide (s.seq = .idle) := by
  simp [cmdReady, hu]

/-- `cmd_ready` while `rst = 1` (R34, R220). -/
theorem cmdReady_of_rst (s : State) : cmdReady s true = false := rfl

/-! ### Reset -/

/-- The reset value of `on_time` fits its register (R6, R42). -/
theorem resetEdge_onTime_toNat {s : State} (hv : s.params.valid = true) :
    (resetEdge s).onTime.toNat = s.params.onTimeMax := by
  obtain ⟨-, -, -, hmax, -⟩ := (Params.valid_iff s.params).mp hv
  rw [resetEdge_onTime, BitVec.toNat_ofNat, Nat.mod_eq_of_lt (by omega)]

/-- Settles O11: an edge with `rst = 1` is `resetEdge` (R220), whose fields are the reset values and whose outputs are those of an
unconfigured, idle block. -/
theorem resetLoadsEveryRegister : Obligations.ResetLoadsEveryRegister := by
  intro s hv hr
  refine ⟨fun _ => cmdReady_of_rst s, resetEdge (afterInputs s), step_of_rst hv hr, ?_⟩
  have hseg := segLine_of_unconfigured (resetEdge_ubFault (afterInputs s)) (resetEdge_cfgDone _)
  have hdig := digLine_of_unconfigured (resetEdge_ubFault (afterInputs s)) (resetEdge_cfgDone _)
  have hbusy := busy_eq (resetEdge_ubFault (afterInputs s))
  have hready := cmdReady_eq (resetEdge_ubFault (afterInputs s))
  have hon := resetEdge_onTime_toNat (s := afterInputs s) hv
  simp [hseg, hdig, hbusy, hready, hon, -resetEdge_onTime]

/-! ### The read port -/

/-- A bit of a read-port word, read off the word's number. -/
theorem getLsbD_of_quotient {w : RdWord} {k : Nat} {b : Bool} (h : w.toNat / 2 ^ k % 2 = b.toNat) : w.getLsbD k = b := by
  rw [BitVec.getLsbD, Nat.testBit_eq_decide_div_mod_eq, h]
  cases b <;> rfl

theorem strategyBit_eq (t : Strategy) : t.bit = decide (t = .step) := by cases t <;> rfl

theorem Seq.code_lt (q : Seq) : q.code < 7 := by cases q <;> decide

/-- STATUS field by field: the packed fields do not overlap (R40). -/
theorem statusWord_fields (s : State) :
    (statusWord s).getLsbD 0 = sequencerBusy s ∧ (statusWord s).getLsbD 1 = s.cfgDone ∧
    (statusWord s).getLsbD 2 = s.ubFault ∧ (statusWord s).getLsbD 3 = s.strategy.bit ∧
    (statusWord s).toNat / 16 % 4 = s.polarity.code ∧ (statusWord s).getLsbD 6 = s.digOnLvl ∧
    (statusWord s).getLsbD 7 = s.segOnLvl ∧ (statusWord s).toNat / 256 = s.digitCount.toNat := by
  have hpol := s.polarity.code_lt
  have hbusy := (sequencerBusy s).toNat_lt
  have hcfg := s.cfgDone.toNat_lt
  have hub := s.ubFault.toNat_lt
  have hstrat := s.strategy.bit.toNat_lt
  have hdig := s.digOnLvl.toNat_lt
  have hseg := s.segOnLvl.toNat_lt
  have hnum : (statusWord s).toNat = (sequencerBusy s).toNat + s.cfgDone.toNat * 2 + s.ubFault.toNat * 4
      + s.strategy.bit.toNat * 8 + s.polarity.code * 16 + s.digOnLvl.toNat * 64 + s.segOnLvl.toNat * 128
      + s.digitCount.toNat * 256 := by
    rw [statusWord, BitVec.toNat_ofNat, Nat.mod_eq_of_lt (by omega)]
  refine ⟨getLsbD_of_quotient ?_, getLsbD_of_quotient ?_, getLsbD_of_quotient ?_, getLsbD_of_quotient ?_, ?_,
    getLsbD_of_quotient ?_, getLsbD_of_quotient ?_, ?_⟩ <;> omega

/-- The fields of LINES do not overlap (R40). -/
theorem linesWord_toNat (s : State) : (linesWord s).toNat = s.segAct.toNat + 256 * s.digAct.toNat := by
  rw [linesWord, BitVec.toNat_ofNat]
  omega

/-- SEQ field by field: the packed fields do not overlap (R40). -/
theorem seqWord_fields (s : State) :
    (seqWord s).toNat % 8 = s.seq.code ∧ (seqWord s).getLsbD 3 = s.seqMode.bit ∧
    (seqWord s).toNat / 16 % 8 = s.curSeg.toNat ∧ (seqWord s).toNat / 128 % 512 = 0 ∧
    (seqWord s).toNat / 2 ^ 16 = s.sweepT.toNat := by
  have hcode := s.seq.code_lt
  have hmode := s.seqMode.bit.toNat_lt
  have hnum : (seqWord s).toNat =
      s.seq.code + s.seqMode.bit.toNat * 2 ^ 3 + s.curSeg.toNat * 2 ^ 4 + s.sweepT.toNat * 2 ^ 16 := by
    rw [seqWord, BitVec.toNat_ofNat, Nat.mod_eq_of_lt (by omega)]
  refine ⟨?_, getLsbD_of_quotient ?_, ?_, ?_, ?_⟩ <;> omega

/-- The read port outside the faulted state shows the register map (R40). -/
theorem rdReg_eq {s : State} (hu : s.ubFault = false) (a : BitVec 6) : rdReg s a = registerWord s a.toNat := by
  simp [rdReg, hu]

/-- From address 7 up the map holds the MASK registers alone (R40). -/
theorem registerWord_of_ge {a : Nat} (s : State) (h : 7 ≤ a) : registerWord s a = maskWord s a := by
  simp only [registerWord]
  iterate 7 rw [if_neg (by omega)]

theorem rdReg_mask {s : State} {i : Nat} (hu : s.ubFault = false) (hm : s.params.maxDigits ≤ 8)
    (hi : i < s.params.maxDigits) : rdReg s (BitVec.ofNat 6 (8 + i)) = (Memory.read s.mask i).setWidth 32 := by
  have haddr : (BitVec.ofNat 6 (8 + i)).toNat = 8 + i := by rw [BitVec.toNat_ofNat, Nat.mod_eq_of_lt (by omega)]
  rw [rdReg_eq hu, haddr, registerWord_of_ge s (by omega), maskWord, if_pos (by omega), Nat.add_sub_cancel_left]

theorem rdReg_unmapped {s : State} {a : BitVec 6} (hu : s.ubFault = false)
    (ha : a.toNat = 7 ∨ 8 + s.params.maxDigits ≤ a.toNat) : rdReg s a = 0#32 := by
  rw [rdReg_eq hu, registerWord_of_ge s (by omega), maskWord, if_neg (by omega)]

/-- An edge reads of its inputs `rst` and the command port only (R131). -/
theorem step_eq_of_same_ports {s t : State} (hrst : (edgeNow s).rst = (edgeNow t).rst)
    (hvalid : (edgeNow s).cmdValid = (edgeNow t).cmdValid) (hdata : (edgeNow s).cmdData = (edgeNow t).cmdData)
    (hafter : afterInputs s = afterInputs t) : step s = step t := by
  have hparams : s.params = t.params := congrArg (fun u => u.params) hafter
  have hfault : s.ubFault = t.ubFault := congrArg (fun u => u.ubFault) hafter
  have hseq : s.seq = t.seq := congrArg (fun u => u.seq) hafter
  simp only [step, edge, hrst, hvalid, hdata, hafter, hparams, hfault, hseq]

/-- Settles O59, register by register from the fields of the packed words; the address is none of the ports an edge reads. -/
theorem readPortMap : Obligations.ReadPortMap := by
  refine ⟨fun s hu hm => ?_, fun s e l a => step_eq_of_same_ports rfl rfl rfl rfl⟩
  have hstatus : rdReg s 0x00#6 = statusWord s := rdReg_eq hu _
  have honTime : rdReg s 0x01#6 = s.onTime.setWidth 32 := rdReg_eq hu _
  have hskip : rdReg s 0x02#6 = s.skip.setWidth 32 := rdReg_eq hu _
  have hpos : rdReg s 0x03#6 = s.pos.setWidth 32 := rdReg_eq hu _
  have hlines : rdReg s 0x04#6 = linesWord s := rdReg_eq hu _
  have hseq : rdReg s 0x05#6 = seqWord s := rdReg_eq hu _
  have hhold : rdReg s 0x06#6 = s.holdCnt := rdReg_eq hu _
  rw [hstatus, honTime, hskip, hpos, hlines, hseq, hhold, ← strategyBit_eq, ← strategyBit_eq]
  obtain ⟨busyBit, cfgBit, faultBit, stratBit, polBits, digBit, segBit, countBits⟩ := statusWord_fields s
  obtain ⟨codeBits, modeBit, curSegBits, gapBits, sweepBits⟩ := seqWord_fields s
  refine ⟨busyBit, cfgBit, faultBit, stratBit, polBits, digBit, segBit, countBits,
    BitVec.toNat_setWidth_of_le (by decide), BitVec.toNat_setWidth_of_le (by decide),
    BitVec.toNat_setWidth_of_le (by decide), linesWord_toNat s, codeBits, modeBit, curSegBits, gapBits, sweepBits, rfl,
    fun i hi => ?_, fun a ha => rdReg_unmapped hu ha⟩
  rw [rdReg_mask hu hm hi]
  exact BitVec.toNat_setWidth_of_le (by decide)

end Sys2Proof.Machine
end

section
/-! PROOFS. The command words: reserved bits, the fields the decoder reads, the encoding function (R71 to R77, R80). -/

namespace Sys2Proof

/-! ### Fields of a word -/

/-- Words that agree on the bits of a mask agree on every field the mask covers. -/
theorem field_eq_of_masked_eq {w w' m : CmdWord} (h : w &&& m = w' &&& m) {lo len : Nat}
    (hm : field m lo len = BitVec.allOnes len) : field w lo len = field w' lo len := by
  have keep (v : CmdWord) : field (v &&& m) lo len = field v lo len := by
    rw [field, BitVec.extractLsb'_and, ← field, ← field, hm, BitVec.and_allOnes]
  rw [← keep w, h, keep w']

/-- Words that agree on the bits of a mask agree on every bit the mask holds. -/
theorem bit_eq_of_masked_eq {w w' m : CmdWord} (h : w &&& m = w' &&& m) {k : Nat} (hm : m.getLsbD k = true) :
    w.getLsbD k = w'.getLsbD k := by
  have keep (v : CmdWord) : (v &&& m).getLsbD k = v.getLsbD k := by rw [BitVec.getLsbD_and, hm, Bool.and_true]
  rw [← keep w, h, keep w']

/-- A word with no bit outside a mask is 0 in every field outside the mask. -/
theorem quotient_eq_zero_of_masked {w m : CmdWord} (h : w &&& m = w) {lo len : Nat} (hm : field m lo len = 0#len) :
    w.toNat / 2 ^ lo % 2 ^ len = 0 := by
  rw [← field_toNat, ← h, field, BitVec.extractLsb'_and, ← field, ← field, hm, BitVec.and_zero, BitVec.toNat_zero]

theorem bit_toNat (w : CmdWord) (k : Nat) : (w.getLsbD k).toNat = w.toNat / 2 ^ k % 2 := by
  rw [bit_eq]
  rcases Nat.mod_two_eq_zero_or_one (w.toNat / 2 ^ k) with h | h <;> simp [h]

/-- The lowest bits of a word (R7). -/
theorem field_zero_toNat (w : CmdWord) (len : Nat) : (field w 0 len).toNat = w.toNat % 2 ^ len := by
  rw [field_toNat, pow_zero, Nat.div_one]

/-- The two's complement reading of the lowest `len` bits (R7). -/
theorem field_zero_toInt (w : CmdWord) {len : Nat} (hlen : 0 < len) :
    (field w 0 len).toInt =
      if w.getLsbD (len - 1) = true then (w.toNat % 2 ^ len : Int) - 2 ^ len else (w.toNat % 2 ^ len : Int) := by
  have hsign : (field w 0 len).msb = w.getLsbD (len - 1) := by
    simp [BitVec.msb_eq_getLsbD_last, field, hlen]
  rw [BitVec.toInt_eq_msb_cond, hsign, field_zero_toNat]
  push_cast
  rfl

/-- The two's complement reading, taken back to the bits (R80). -/
theorem toInt_emod_toNat {n : Nat} (x : BitVec n) : (x.toInt % 2 ^ n).toNat = x.toNat := by
  have h := BitVec.toNat_ofInt (n := n) x.toInt
  rw [BitVec.ofInt_toInt] at h
  simpa using h.symm

@[simp] theorem Polarity.code_ofCode (c : BitVec 2) : (Polarity.ofCode c).code = c.toNat := by
  revert c
  decide

@[simp] theorem Strategy.bit_ofBit (b : Bool) : (Strategy.ofBit b).bit = b := by cases b <;> rfl

namespace Machine

/-! ### The decoder and the format, opcode by opcode -/

theorem field_opcode (w : CmdWord) : (field w 60 4).toNat = opcode w := by
  rw [field_toNat, opcode]
  omega

section
variable {w : CmdWord}

theorem decode_nop (h : opcode w = 0) : decode w = .nop := by simp only [decode, field_opcode, h]

theorem decode_configure (h : opcode w = 1) :
    decode w = .configure (Polarity.ofCode (field w 0 2)) (Strategy.ofBit (w.getLsbD 2)) (field w 8 4) := by
  simp only [decode, field_opcode, h]

theorem decode_setDigit (h : opcode w = 2) : decode w = .setDigit (field w 8 4) (field w 0 5) := by
  simp only [decode, field_opcode, h]

theorem decode_setDigits (h : opcode w = 3) :
    decode w = .setDigits (field w 56 4) (field w 0 5) (field w 5 5) (field w 10 5) (field w 15 5) (field w 20 5)
      (field w 25 5) (field w 30 5) (field w 35 5) := by
  simp only [decode, field_opcode, h]

theorem decode_setBrightness (h : opcode w = 4) : decode w = .setBrightness (brightnessOperand w) := by
  simp only [decode, field_opcode, h]

theorem decode_refresh (h : opcode w = 5) (ht : w.getLsbD 16 = false) : decode w = .refresh := by
  simp only [decode, field_opcode, h, ht, Bool.false_eq_true, if_false]

theorem decode_refreshT (h : opcode w = 5) (ht : w.getLsbD 16 = true) : decode w = .refreshT (field w 0 16) := by
  simp only [decode, field_opcode, h, ht, if_true]

theorem decode_advanceStep (h : opcode w = 6) : decode w = .advanceStep := by simp only [decode, field_opcode, h]

theorem decode_setNumber (h : opcode w = 7) :
    decode w = .setNumber (w.getLsbD 36) (field w 32 4) (numberOperand w) := by
  simp only [decode, field_opcode, h]

theorem decode_reserved (h : 8 ≤ opcode w) : decode w = .reserved (field w 60 4) := by
  obtain ⟨k, hk⟩ := Nat.exists_eq_add_of_le' h
  simp only [decode, field_opcode, hk]

theorem formatBits_refresh (h : opcode w = 5) (ht : w.getLsbD 16 = false) : formatBits w = 0xF000000000010000#64 := by
  simp only [formatBits, h, ht, Bool.false_eq_true, if_false]

theorem formatBits_refreshT (h : opcode w = 5) (ht : w.getLsbD 16 = true) : formatBits w = 0xF00000000001FFFF#64 := by
  simp only [formatBits, h, ht, if_true]

theorem formatBits_reserved (h : 8 ≤ opcode w) : formatBits w = 0xF000000000000000#64 := by
  obtain ⟨k, hk⟩ := Nat.exists_eq_add_of_le' h
  simp only [formatBits, hk]
end

/-! ### Reserved bits -/

/-- Every format names the opcode (R71). -/
theorem formatBits_covers_opcode (w : CmdWord) : field (formatBits w) 60 4 = BitVec.allOnes 4 := by
  unfold formatBits
  split
  case h_5 => split <;> decide
  all_goals decide

/-- R74 of the decoder: it reads the bits the word's format names and no other. -/
theorem decode_eq_of_format_eq {w w' : CmdWord} (hw : w &&& formatBits w = w' &&& formatBits w) :
    decode w = decode w' := by
  have hop : opcode w' = opcode w := by
    rw [← field_opcode, ← field_opcode, field_eq_of_masked_eq hw (formatBits_covers_opcode w)]
  match h : opcode w with
  | 0 => rw [decode_nop h, decode_nop (hop.trans h)]
  | 1 =>
    simp only [formatBits, h] at hw
    rw [decode_configure h, decode_configure (hop.trans h), bit_eq_of_masked_eq hw (by decide)]
    congr 1
    · exact congrArg Polarity.ofCode (field_eq_of_masked_eq hw (by decide))
    · exact field_eq_of_masked_eq hw (by decide)
  | 2 =>
    simp only [formatBits, h] at hw
    rw [decode_setDigit h, decode_setDigit (hop.trans h)]
    congr 1 <;> exact field_eq_of_masked_eq hw (by decide)
  | 3 =>
    simp only [formatBits, h] at hw
    rw [decode_setDigits h, decode_setDigits (hop.trans h)]
    congr 1 <;> exact field_eq_of_masked_eq hw (by decide)
  | 4 =>
    simp only [formatBits, h] at hw
    rw [decode_setBrightness h, decode_setBrightness (hop.trans h), brightnessOperand, brightnessOperand,
      field_eq_of_masked_eq hw (by decide)]
  | 5 =>
    cases ht : w.getLsbD 16 with
    | false =>
      rw [formatBits_refresh h ht] at hw
      rw [decode_refresh h ht, decode_refresh (hop.trans h) ((bit_eq_of_masked_eq hw (by decide)).symm.trans ht)]
    | true =>
      rw [formatBits_refreshT h ht] at hw
      rw [decode_refreshT h ht, decode_refreshT (hop.trans h) ((bit_eq_of_masked_eq hw (by decide)).symm.trans ht),
        field_eq_of_masked_eq hw (by decide)]
  | 6 => rw [decode_advanceStep h, decode_advanceStep (hop.trans h)]
  | 7 =>
    simp only [formatBits, h] at hw
    rw [decode_setNumber h, decode_setNumber (hop.trans h), numberOperand, numberOperand,
      bit_eq_of_masked_eq hw (by decide), field_eq_of_masked_eq hw (lo := 32) (by decide),
      field_eq_of_masked_eq hw (lo := 0) (by decide)]
  | k + 8 =>
    rw [decode_reserved (by omega), decode_reserved (by omega),
      field_eq_of_masked_eq hw (formatBits_covers_opcode w)]

/-- Settles O3: the two words decode to one command, which `exec` runs in both. -/
theorem reservedBitsAreIgnored : Obligations.ReservedBitsAreIgnored := by
  intro w w' hw
  have hdecode := decode_eq_of_format_eq hw
  exact ⟨hdecode, fun s => by rw [hdecode]⟩

/-! ### The fields of each command -/

/-- The symbols of SET_DIGITS lie five bits apart (R71). -/
theorem symbol_toNat (w : CmdWord) {k : Nat} {y : BitVec 5}
    (hy : [field w 0 5, field w 5 5, field w 10 5, field w 15 5, field w 20 5, field w 25 5, field w 30 5,
      field w 35 5][k]? = some y) : y.toNat = w.toNat / 2 ^ (5 * k) % 32 := by
  change ((List.range 8).map fun j => field w (5 * j) 5)[k]? = some y at hy
  obtain ⟨j, hj, rfl⟩ := by simpa only [List.getElem?_map, Option.map_eq_some_iff] using hy
  obtain ⟨-, rfl⟩ := List.getElem?_eq_some_iff.mp hj
  rw [List.getElem_range]
  exact field_toNat w (5 * k) 5

/-- BRT `VAL` as a number (R73). -/
theorem brightnessOperand_eq (w : CmdWord) : brightnessOperand w =
    if w.getLsbD 15 = true then (w.toNat % 2 ^ 16 : Int) - 2 ^ 16 else (w.toNat % 2 ^ 16 : Int) :=
  field_zero_toInt w (by decide)

/-- NUM `VAL` as a number (R73). -/
theorem numberOperand_eq (w : CmdWord) : numberOperand w =
    if w.getLsbD 36 = true ∧ w.getLsbD 31 = true then (w.toNat % 2 ^ 32 : Int) - 2 ^ 32
    else (w.toNat % 2 ^ 32 : Int) := by
  rw [numberOperand, field_zero_toInt w (by decide), field_zero_toNat]
  cases w.getLsbD 36 <;> simp

/-- Settles O4, opcode by opcode: the decoded command's operands are fields of the word, read by `field_toNat`. -/
theorem decoderReadsEachFieldAtItsPlace : Obligations.DecoderReadsEachFieldAtItsPlace := by
  intro w
  refine ⟨decode_nop,
    fun h => ⟨_, _, _, decode_configure h, ?polarity, Strategy.bit_ofBit _, field_toNat w 8 4⟩,
    fun h => ⟨_, _, decode_setDigit h, field_toNat w 8 4, field_zero_toNat w 5⟩,
    fun h => ⟨_, _, _, _, _, _, _, _, _, decode_setDigits h, field_toNat w 56 4, fun _ _ => symbol_toNat w⟩,
    fun h => ⟨_, decode_setBrightness h, brightnessOperand_eq w⟩,
    decode_refresh,
    fun h ht => ⟨_, decode_refreshT h ht, field_zero_toNat w 16⟩,
    decode_advanceStep,
    fun h => ⟨_, _, decode_setNumber h, field_toNat w 32 4, numberOperand_eq w⟩,
    fun h s => ?reserved⟩
  case polarity => exact (Polarity.code_ofCode _).trans (field_zero_toNat w 2)
  case reserved => rw [decode_reserved h, exec_reserved, exec_nop]

/-! ### The encoding function -/

/-- The number of a signed number's bits (R80). -/
theorem numberOperand_emod_toNat (w : CmdWord) : (numberOperand w % 2 ^ 32).toNat = w.toNat % 2 ^ 32 := by
  rw [numberOperand_eq]
  split <;> omega

/-- The encoding function inverts the decoder on a word whose reserved bits are 0 (R80): the fields read and the reserved
fields, which are 0, are the whole word. -/
theorem encode_decode_of_reserved_zero {w : CmdWord} (hw : w &&& formatBits w = w) : encode (decode w) = w := by
  apply BitVec.eq_of_toNat_eq
  have hopcode : opcode w = w.toNat / 2 ^ 60 := rfl
  rw [encode_toNat]
  match h : opcode w with
  | 0 =>
    simp only [formatBits, h] at hw
    have gap := quotient_eq_zero_of_masked hw (lo := 0) (len := 60) (by decide)
    rw [decode_nop h, encodeNat]
    omega
  | 1 =>
    simp only [formatBits, h] at hw
    have gapLow := quotient_eq_zero_of_masked hw (lo := 3) (len := 5) (by decide)
    have gapHigh := quotient_eq_zero_of_masked hw (lo := 12) (len := 48) (by decide)
    rw [decode_configure h]
    simp only [encodeNat, Polarity.code_ofCode, Strategy.bit_ofBit, field_toNat, bit_toNat]
    omega
  | 2 =>
    simp only [formatBits, h] at hw
    have gapLow := quotient_eq_zero_of_masked hw (lo := 5) (len := 3) (by decide)
    have gapHigh := quotient_eq_zero_of_masked hw (lo := 12) (len := 48) (by decide)
    rw [decode_setDigit h]
    simp only [encodeNat, field_toNat]
    omega
  | 3 =>
    simp only [formatBits, h] at hw
    have gap := quotient_eq_zero_of_masked hw (lo := 40) (len := 16) (by decide)
    rw [decode_setDigits h]
    simp only [encodeNat, field_toNat]
    omega
  | 4 =>
    simp only [formatBits, h] at hw
    have gap := quotient_eq_zero_of_masked hw (lo := 16) (len := 44) (by decide)
    rw [decode_setBrightness h, encodeNat, brightnessOperand, toInt_emod_toNat, field_zero_toNat]
    omega
  | 5 =>
    cases ht : w.getLsbD 16 with
    | false =>
      rw [formatBits_refresh h ht] at hw
      have gapLow := quotient_eq_zero_of_masked hw (lo := 0) (len := 16) (by decide)
      have gapHigh := quotient_eq_zero_of_masked hw (lo := 17) (len := 43) (by decide)
      have tbit := bit_toNat w 16
      rw [ht, Bool.toNat_false] at tbit
      rw [decode_refresh h ht, encodeNat]
      omega
    | true =>
      rw [formatBits_refreshT h ht] at hw
      have gap := quotient_eq_zero_of_masked hw (lo := 17) (len := 43) (by decide)
      have tbit := bit_toNat w 16
      rw [ht, Bool.toNat_true] at tbit
      rw [decode_refreshT h ht, encodeNat, field_zero_toNat]
      omega
  | 6 =>
    simp only [formatBits, h] at hw
    have gap := quotient_eq_zero_of_masked hw (lo := 0) (len := 60) (by decide)
    rw [decode_advanceStep h, encodeNat]
    omega
  | 7 =>
    simp only [formatBits, h] at hw
    have gap := quotient_eq_zero_of_masked hw (lo := 37) (len := 23) (by decide)
    rw [decode_setNumber h, encodeNat, numberOperand_emod_toNat, field_toNat, bit_toNat]
    omega
  | k + 8 =>
    rw [formatBits_reserved (by omega)] at hw
    have gap := quotient_eq_zero_of_masked hw (lo := 0) (len := 60) (by decide)
    rw [decode_reserved (by omega), encodeNat, field_opcode]
    omega

/-- Settles O5: the values are `encodeNat`'s equations; the inverse is `encode_decode_of_reserved_zero`. -/
theorem encodingFunctionInvertsTheDecoder : Obligations.EncodingFunctionInvertsTheDecoder := by
  refine ⟨fun _ _ _ => encode_toNat _, fun _ _ => encode_toNat _, fun cnt y0 y1 y2 y3 y4 y5 y6 y7 => ?_, fun val => ?_,
    encode_toNat _, fun _ => encode_toNat _, encode_toNat _, fun sgn dp val => ?_, encode_toNat _,
    fun w _ hw => encode_decode_of_reserved_zero hw⟩
  · rw [encode_toNat, encodeNat, Fin.sum_univ_eight]
    simp
  · rw [encode_toNat, encodeNat]
    omega
  · rw [encode_toNat, encodeNat]
    omega

end Machine
end Sys2Proof
end

section
/-! PROOFS. The commands that write the mask buffer: SET_DIGIT, SET_DIGITS, SET_NUMBER (R110 to R118). -/

namespace Sys2Proof.Machine

/-! ### SET_DIGIT -/

/-- On a configured block a declared position and a valid symbol are written (R110). -/
theorem exec_setDigit_effective {s : State} {pos : BitVec 4} {sym : BitVec 5} (hc : s.cfgDone = true)
    (hp : pos.toNat < s.digitCount.toNat) (hy : sym.toNat ≤ 17) :
    exec (.setDigit pos sym) s = .next { s with mask := Memory.write s.mask pos.toNat (s.params.sym sym.toNat) } := by
  simp only [exec, execSetDigit, digitMask, Memory.writeOpt, if_pos hc, if_pos (And.intro hp hy)]

theorem exec_setDigit_ineffective {s : State} {pos : BitVec 4} {sym : BitVec 5}
    (h : ¬(s.cfgDone = true ∧ pos.toNat < s.digitCount.toNat ∧ sym.toNat ≤ 17)) :
    exec (.setDigit pos sym) s = .next s := by
  by_cases hc : s.cfgDone = true
  · simp only [exec, execSetDigit, digitMask, Memory.writeOpt, if_pos hc, if_neg fun hps => h ⟨hc, hps⟩]
  · simp only [exec, execSetDigit, if_neg hc]

/-- Settles O37: either the one write of R110 is made, read back by `Memory.read_write`, or the state is answered as it was. -/
theorem setDigitWritesOneDeclaredPosition : Obligations.SetDigitWritesOneDeclaredPosition := by
  intro s pos sym hwf
  by_cases h : s.cfgDone = true ∧ pos.toNat < s.digitCount.toNat ∧ sym.toNat ≤ 17
  · obtain ⟨hc, hp, hy⟩ := h
    refine ⟨_, exec_setDigit_effective hc hp hy, fun _ => ?_, fun hn => absurd ⟨hc, hp, hy⟩ hn, fun a ha => ?_, rfl⟩
    · rw [Memory.read_write hwf, if_pos rfl]
    · rw [Memory.read_write hwf, if_neg ha]
  · exact ⟨s, exec_setDigit_ineffective h, fun he => absurd he h, fun _ => rfl, fun _ _ => rfl, rfl⟩

/-! ### SET_DIGITS -/

section
variable {s : State} {cnt : BitVec 4} {y0 y1 y2 y3 y4 y5 y6 y7 : BitVec 5}

theorem exec_setDigits_effective (hc : s.cfgDone = true) (hn : cnt.toNat ≤ s.digitCount.toNat) :
    exec (.setDigits cnt y0 y1 y2 y3 y4 y5 y6 y7) s =
      .next { s with mask := Memory.writeEach cnt.toNat (laneMask s y0 y1 y2 y3 y4 y5 y6 y7) s.mask } := by
  simp only [exec, execSetDigits, if_pos (And.intro hc hn)]

theorem exec_setDigits_ineffective (h : ¬(s.cfgDone = true ∧ cnt.toNat ≤ s.digitCount.toNat)) :
    exec (.setDigits cnt y0 y1 y2 y3 y4 y5 y6 y7) s = .next s := by
  simp only [exec, execSetDigits, if_neg h]

/-- A lane at a declared position is masked off by its symbol alone (R113). -/
theorem laneMask_of_declared {k : Nat} {y : BitVec 5} (hy : [y0, y1, y2, y3, y4, y5, y6, y7][k]? = some y)
    (hk : k < s.digitCount.toNat) :
    laneMask s y0 y1 y2 y3 y4 y5 y6 y7 k = if y.toNat ≤ 17 then some (s.params.sym y.toNat) else none := by
  rw [laneMask, lane, List.getD_eq_getElem?_getD, hy, Option.getD_some, digitMask]
  simp only [hk, true_and]
end

/-- Settles O38: a list that fits is one batch write, read back lane by lane by `Memory.read_writeEach`; a list that does not
leaves the state as it was. -/
theorem setDigitsIsAllOrNothingOnItsLength : Obligations.SetDigitsIsAllOrNothingOnItsLength := by
  intro s cnt y0 y1 y2 y3 y4 y5 y6 y7 hwf _
  have hnone : s.cfgDone = false ∨ s.digitCount.toNat < cnt.toNat ↔
      ¬(s.cfgDone = true ∧ cnt.toNat ≤ s.digitCount.toNat) := by
    rw [not_and_or, Bool.not_eq_true, Nat.not_le]
  by_cases h : s.cfgDone = true ∧ cnt.toNat ≤ s.digitCount.toNat
  · obtain ⟨hc, hn⟩ := h
    refine ⟨_, exec_setDigits_effective hc hn, fun _ _ k y hy hk => ?_,
      fun hne => absurd ⟨hc, hn⟩ (hnone.mp hne), fun a ha => ?_, rfl⟩
    · rw [Memory.read_writeEach hwf, if_pos hk, laneMask_of_declared hy (by omega)]
      split <;> rfl
    · rw [Memory.read_writeEach hwf, if_neg (by omega)]
  · exact ⟨s, exec_setDigits_ineffective h, fun hc hn => absurd ⟨hc, hn⟩ h, fun _ => rfl, fun _ _ => rfl, rfl⟩

/-! ### The decimal digits -/

/-- The search for the number of digits finds it, given enough fuel (R116). -/
theorem digitPlaces_eq_log {f m : Nat} (h : m ≤ f) : digitPlaces f m = Nat.log 10 m + 1 := by
  induction f generalizing m with
  | zero => rw [digitPlaces, Nat.log_of_lt (by omega)]
  | succ f ih =>
    rw [digitPlaces]
    split
    · rename_i hlt
      rw [Nat.log_of_lt hlt]
    · rename_i hge
      rw [ih (by omega), Nat.log_of_one_lt_of_le (by decide) (by omega : 10 ≤ m)]

@[simp] theorem digits10_length (m : Nat) : (digits10 m).length = Nat.log 10 m + 1 := by
  simp [digits10, digitPlaces_eq_log]

/-- The digit of place `j`, counted from the right (R116). -/
theorem digits10_getD {m j : Nat} (h : j < (digits10 m).length) :
    (digits10 m).getD ((digits10 m).length - 1 - j) 0 = m / 10 ^ j % 10 := by
  rw [← List.getD_reverse j h]
  rw [digits10_length] at h
  simp [digits10, digitPlaces_eq_log, List.getD_eq_getElem?_getD, h]

/-- The library's digits, least significant first, are those of `digits10` turned round (R116). -/
theorem digits10_eq_reverse_digits {m : Nat} (hm : 0 < m) : digits10 m = (Nat.digits 10 m).reverse := by
  have hlen : (Nat.digits 10 m).length = Nat.log 10 m + 1 := Nat.length_digits 10 m (by decide) (by omega)
  rw [← List.reverse_eq_iff]
  refine List.ext_getElem (by rw [List.length_reverse, digits10_length, hlen]) fun j hj _ => ?_
  rw [← List.getD_eq_getElem (d := 0), ← List.getD_eq_getElem (d := 0), Nat.getD_digits m j (by decide),
    List.getD_reverse j (by simpa using hj), digits10_getD (by simpa using hj)]

/-- Settles O39: the two readings agree with `digits10` in length and at every place. -/
theorem decimalDigitsMostSignificantFirst : Obligations.DecimalDigitsMostSignificantFirst := by
  refine ⟨rfl, fun m hm => ⟨digits10_eq_reverse_digits hm, ?_⟩⟩
  rw [digits10, digitPlaces_eq_log le_rfl]

/-! ### The digits SET_NUMBER places -/

@[simp] theorem paddedDigits_length (m dp : Nat) :
    (paddedDigits m dp).length = max (digits10 m).length (dp + 1) := by
  rw [paddedDigits, List.length_append, List.length_replicate]
  omega

/-- The fit test of R115, read as a bound on the value and one on the point. -/
theorem paddedDigits_length_le_iff {m dp n : Nat} : (paddedDigits m dp).length ≤ n ↔ m < 10 ^ n ∧ dp + 1 ≤ n := by
  rw [paddedDigits_length, max_le_iff, digits10_length]
  refine and_congr_left fun hn => ⟨Nat.lt_pow_of_log_lt (by decide), Nat.log_lt_of_lt_pow' (by omega)⟩

/-- The places that show a digit: those down from the leading digit, and the leading zeros down to the units place (R115). -/
theorem lt_paddedDigits_length_iff {m dp j : Nat} : j < (paddedDigits m dp).length ↔ j ≤ dp ∨ 10 ^ j ≤ m := by
  rw [← Nat.not_le, paddedDigits_length_le_iff]
  omega

theorem paddedDigits_length_pos (m dp : Nat) : 0 < (paddedDigits m dp).length :=
  lt_paddedDigits_length_iff.mpr (.inl (Nat.zero_le dp))

/-- Of the places left of the digits, the first is the one above the leading digit, or above the units place where leading
zeros go down to it (R115). -/
theorem eq_paddedDigits_length_iff {m dp j : Nat} (hj : ¬j < (paddedDigits m dp).length) :
    j = (paddedDigits m dp).length ↔ j ≤ dp + 1 ∨ 10 ^ (j - 1) ≤ m := by
  have hpos := paddedDigits_length_pos m dp
  have hprev := lt_paddedDigits_length_iff (m := m) (dp := dp) (j := j - 1)
  omega

/-- The digit of place `j`, counted from the right, leading zeros included (R115, R116). -/
theorem paddedDigits_getD {m dp j : Nat} (h : j < (paddedDigits m dp).length) :
    (paddedDigits m dp).getD ((paddedDigits m dp).length - 1 - j) 0 = m / 10 ^ j % 10 := by
  rw [paddedDigits_length] at h ⊢
  by_cases hj : j < (digits10 m).length
  · rw [paddedDigits, List.getD_append_right _ _ _ _ (by rw [List.length_replicate]; omega), List.length_replicate,
      ← digits10_getD hj]
    congr 1
    omega
  · have hm : m < 10 ^ j := Nat.lt_pow_of_log_lt (by decide) (by rw [digits10_length] at hj; omega)
    rw [paddedDigits, List.getD_append _ _ _ _ (by rw [List.length_replicate]; omega), Nat.div_eq_of_lt hm,
      List.getD_replicate _ (by omega)]

/-! ### SET_NUMBER -/

section
variable {s : State} {sgn : Bool} {dp : BitVec 4} {val : Int}

theorem exec_setNumber_effective (hb : s.params.hasSetNumber = true) (hc : s.cfgDone = true) :
    exec (.setNumber sgn dp val) s =
      .next { s with mask := Memory.writeEach s.digitCount.toNat (numberEntry s sgn dp.toNat val) s.mask } := by
  simp only [exec, execSetNumber, if_pos (And.intro hb hc)]

theorem exec_setNumber_ineffective (h : s.params.hasSetNumber = false ∨ s.cfgDone = false) :
    exec (.setNumber sgn dp val) s = .next s := by
  have hnot : ¬(s.params.hasSetNumber = true ∧ s.cfgDone = true) := by
    rwa [not_and_or, Bool.not_eq_true, Bool.not_eq_true]
  simp only [exec, execSetNumber, if_neg hnot]
end

/-- The minus sign is shown for the negative values alone: an unsigned operand has none (R73, R115). -/
theorem minusSign_eq {sgn : Bool} {val : Int} (h : wfNumber sgn val) : (sgn && decide (val < 0)) = decide (val < 0) := by
  cases sgn with
  | true => rfl
  | false =>
    obtain ⟨h0, -⟩ : 0 ≤ val ∧ val ≤ 4294967295 := h
    simpa using h0

/-- The digits and the minus sign fit the `n` declared positions (R115, R117). -/
abbrev numberFits (dp : Nat) (val : Int) (n : Nat) : Prop :=
  val.natAbs < 10 ^ (n - (if val < 0 then 1 else 0)) ∧ dp + 1 + (if val < 0 then 1 else 0) ≤ n

/-- The model's own fit test is the one of R115 (`numberMask`). -/
theorem numberFits_iff {dp n : Nat} {val : Int} :
    numberFits dp val n ↔ (paddedDigits val.natAbs dp).length + (decide (val < 0)).toNat ≤ n := by
  have hlen := paddedDigits_length_le_iff (m := val.natAbs) (dp := dp) (n := n - (if val < 0 then 1 else 0))
  have hpos := paddedDigits_length_pos val.natAbs dp
  by_cases hneg : val < 0
  · simp only [numberFits, hneg, if_true, decide_true, Bool.toNat_true] at hlen ⊢
    omega
  · simp only [numberFits, hneg, if_false, decide_false, Bool.toNat_false] at hlen ⊢
    omega

theorem numberMask_of_overflow {p : Params} {sgn : Bool} {dp n : Nat} {val : Int} (hv : wfNumber sgn val)
    (h : ¬numberFits dp val n) (i : Nat) : numberMask p sgn dp val n i = p.sym 17 := by
  rw [numberFits_iff, Nat.not_le, ← minusSign_eq hv] at h
  rw [numberMask, if_pos h]

theorem numberMask_of_fits {p : Params} {sgn : Bool} {dp n : Nat} {val : Int} (hv : wfNumber sgn val)
    (h : numberFits dp val n) (i : Nat) :
    numberMask p sgn dp val n i = numberPlace p (decide (val < 0)) dp (paddedDigits val.natAbs dp) n i := by
  rw [numberFits_iff, ← Nat.not_lt, ← minusSign_eq hv] at h
  rw [numberMask, if_neg h, minusSign_eq hv]

/-- The mask of place `j`, counted from the right: a digit, the sign directly left of the digits, or BLANK (R115). -/
theorem numberPlace_from_right {p : Params} {neg : Bool} {dp n j : Nat} {d : List Nat} (hj : j < n) :
    numberPlace p neg dp d n (n - 1 - j) =
      if j < d.length then
        p.sym (d.getD (d.length - 1 - j) 0) ||| (if 0 < dp ∧ j = dp then 0x80#8 else 0x00#8)
      else if neg = true ∧ j = d.length then p.sym 17
      else p.sym 16 := by
  have hk : ((n - 1 - j : Nat) : Int) - ((n : Int) - (d.length : Int)) = (d.length : Int) - 1 - j := by omega
  simp only [numberPlace, hk]
  by_cases hd : j < d.length
  · have hidx : ((d.length : Int) - 1 - j).toNat = d.length - 1 - j := by omega
    have hpoint : (d.length : Int) - 1 - j = (d.length : Int) - 1 - dp ↔ j = dp := by omega
    rw [if_pos (by omega), if_pos hd, hidx]
    simp only [hpoint]
    split
    · rfl
    · rw [BitVec.or_zero]
  · have hsign : (d.length : Int) - 1 - j = -1 ↔ j = d.length := by omega
    rw [if_neg (by omega), if_neg hd]
    simp only [hsign]

/-- Settles O40: SET_NUMBER is one batch write of every declared position; the fit test is `numberFits_iff`, and each place of
a value that fits is read from the right by `numberPlace_from_right`. -/
theorem setNumberShowsTheDecimalReading : Obligations.SetNumberShowsTheDecimalReading := by
  intro s sgn dp val hinv hv
  obtain ⟨hparams, -, -, -, ⟨hwf, -⟩, -, -⟩ := hinv
  obtain ⟨-, -, hblank, hdash, -⟩ := Params.table_spec hparams
  refine ⟨exec_setNumber_ineffective, fun hb hc => ⟨_, exec_setNumber_effective hb hc, rfl, fun a ha => ?_,
    fun hover i hi => ?_, fun hfits j hj => ?_⟩⟩
  · rw [Memory.read_writeEach hwf, if_neg (by omega)]
  · rw [Memory.read_writeEach hwf, if_pos hi, numberEntry, Option.getD_some, numberMask_of_overflow hv hover, hdash]
  · rw [Memory.read_writeEach hwf, if_pos (by omega), numberEntry, Option.getD_some, numberMask_of_fits hv hfits,
      numberPlace_from_right hj, hdash, hblank]
    simp only [← lt_paddedDigits_length_iff, decide_eq_true_eq]
    by_cases hd : j < (paddedDigits val.natAbs dp.toNat).length
    · rw [if_pos hd, if_pos hd, paddedDigits_getD hd]
    · rw [if_neg hd, if_neg hd]
      exact if_congr (and_congr_right fun _ => eq_paddedDigits_length_iff hd) rfl rfl

end Sys2Proof.Machine
end

section
/-! PROOFS. The output lines and the six micro-operations, one edge each (R130, R132 to R139). -/

namespace Sys2Proof.Machine

/-! ### The outputs -/

/-- Settles O58: outside the faulted state each output is its formula, with no line beyond the eight segments and `MAX_DIGITS`
digits. -/
theorem outputLevelsFollowTheLineState : Obligations.OutputLevelsFollowTheLineState := by
  intro s hu
  refine ⟨fun j hj => ?_, fun i hi => ?_, fun j _ => ?_, fun i _ => ?_, ?_, fun rst => ?_⟩
  · simp [segOe, hu, hj]
  · simp [digOe, hu, hi]
  · simp [segOut, hu]
  · simp [digOut, hu]
  · simp [busy_eq hu]
  · cases rst with
    | true => simp [cmdReady_of_rst]
    | false => simp [cmdReady_eq hu]

section
variable {s : State} (hu : s.ubFault = false)
include hu

theorem busy_of_running (hq : s.seq ≠ .idle) : busy s = true := by simp [busy_eq hu, hq]

theorem cmdReady_of_running (hq : s.seq ≠ .idle) : cmdReady s false = false := by simp [cmdReady_eq hu, hq]

theorem busy_of_idle (hq : s.seq = .idle) : busy s = false := by simp [busy_eq hu, hq]

theorem cmdReady_of_idle (hq : s.seq = .idle) : cmdReady s false = true := by simp [cmdReady_eq hu, hq]
end

/-! ### The edge at which each micro-operation runs (R131) -/

section
variable {s : State} (hv : s.params.valid = true) (hu : s.ubFault = false) (hr : (edgeNow s).rst = false)
include hv hu hr

theorem step_of_segOn (hq : s.seq = .segOn) : step s = .next (segOnOp (afterInputs s)) := by
  simp [step_of_busy hv hr hu, microStep, hq]

theorem step_of_digOn (hq : s.seq = .digOn) : step s = .next (digOnOp (afterInputs s)) := by
  simp [step_of_busy hv hr hu, microStep, hq]

theorem step_of_hold (hq : s.seq = .hold) : step s = .next (holdOp (afterInputs s)) := by
  simp [step_of_busy hv hr hu, microStep, hq]

theorem step_of_digOff (hq : s.seq = .digOff) : step s = .next (digOffOp (afterInputs s)) := by
  simp [step_of_busy hv hr hu, microStep, hq]

theorem step_of_segOff (hq : s.seq = .segOff) : step s = .next (segOffOp (afterInputs s)) := by
  simp [step_of_busy hv hr hu, microStep, hq]

theorem step_of_adv (hq : s.seq = .adv) : step s = .next (advOp (afterInputs s)) := by
  simp [step_of_busy hv hr hu, microStep, hq]
end

/-! ### What the micro-operations that read the mode do in each mode -/

/-- The phase index, as R132 writes it. -/
theorem phase_eq (s : State) : phase s = if s.seqMode = .sweep then s.curSeg.toNat else s.pos.toNat := by
  cases h : s.seqMode <;> simp [h]

@[simp] theorem phase_afterInputs (s : State) : phase (afterInputs s) = phase s := rfl

section
variable {s : State}

theorem digOnOp_of_sweep (h : s.seqMode = .sweep) :
    digOnOp s = { s with digAct := litDigits s, holdCnt := BitVec.ofInt 32 (holdLoad s),
                         seq := if holdLoad s = 0 then .digOff else .hold } := by simp [digOnOp, h]

theorem digOnOp_of_step (h : s.seqMode = .step) : digOnOp s = { s with digAct := litDigits s, seq := .idle } := by
  simp [digOnOp, h]

theorem segOffOp_of_last_phase (h : s.seqMode = .sweep) (hj : s.curSeg = 7#3) :
    segOffOp s = { s with segAct := s.segAct &&& ~~~lineBit (phase s), curSeg := 0#3, seq := .idle } := by
  simp [segOffOp, h, hj]

theorem segOffOp_of_sweep (h : s.seqMode = .sweep) (hj : s.curSeg ≠ 7#3) :
    segOffOp s =
      { s with segAct := s.segAct &&& ~~~lineBit (phase s), curSeg := s.curSeg + 1#3, seq := .segOn } := by
  simp [segOffOp, h, hj]

theorem segOffOp_of_step (h : s.seqMode = .step) :
    segOffOp s = { s with segAct := s.segAct &&& ~~~lineBit (phase s), seq := .adv } := by simp [segOffOp, h]
end

/-- The frame of DIG_ON, in both modes (R134). -/
theorem digOnOp_frame (s : State) :
    digOnOp s = { s with digAct := (digOnOp s).digAct, holdCnt := (digOnOp s).holdCnt, seq := (digOnOp s).seq } := by
  apply State.ext <;> simp

/-- The frame of SEG_OFF, in both modes (R138). -/
theorem segOffOp_frame (s : State) :
    segOffOp s = { s with segAct := (segOffOp s).segAct, curSeg := (segOffOp s).curSeg, seq := (segOffOp s).seq } := by
  apply State.ext <;> simp

/-- The hold loaded is 0 exactly at an on-time of one clock cycle (R134). -/
theorem holdLoad_eq_zero_iff (s : State) : holdLoad s = 0 ↔ s.sweepT.toNat * s.params.cyclesPerUs = 1 := by
  rw [holdLoad, sub_eq_zero]
  norm_cast

/-! ### The six micro-operations -/

/-- Settles O48: SEG_ON sets the phase's bit by an `or` with that bit alone. -/
theorem segOnAssertsThePhaseLine : Obligations.SegOnAssertsThePhaseLine := by
  intro s hv hu hr hq
  refine ⟨_, step_of_segOn hv hu hr hq, rfl, fun k hk => ?_, rfl⟩
  rw [segOnOp_segAct, BitVec.getLsbD_or, lineBit_getLsbD, phase_afterInputs, phase_eq]
  simp [hk, eq_comm]

/-- Every declared digit has a line (R27). -/
theorem digitCount_le_maxDigits {s : State} (h : s.Inv) : s.digitCount.toNat ≤ s.params.maxDigits := by
  obtain ⟨-, -, ⟨hunconf, hconf⟩, -⟩ := h
  cases hc : s.cfgDone with
  | false => simp [hunconf hc]
  | true => exact (hconf hc).2.1

/-- The digit lines after a DIG_ON, where every declared digit has a line (R134). -/
theorem litDigits_getLsbD_of_le {s : State} {i : Nat} (hn : s.digitCount.toNat ≤ s.params.maxDigits) (hi : i < 8) :
    (litDigits s).getLsbD i = (decide (i < s.digitCount.toNat) && (Memory.read s.mask i).getLsbD (phase s)) := by
  rw [litDigits_getLsbD s i hi]
  by_cases h : i < s.digitCount.toNat
  · have hline : i < s.params.maxDigits := by omega
    simp [h, hline]
  · simp [h]

/-- Settles O49: the digit lines are `litDigits`, the hold is `holdLoad_toNat`; the two modes differ in the hold counter and the
successor. -/
theorem digOnShowsTheMasks : Obligations.DigOnShowsTheMasks := by
  intro s hinv hr hq
  have hcount := digitCount_le_maxDigits hinv
  obtain ⟨hv, hu, -, -, -, ⟨-, hsweepT, -⟩, -⟩ := hinv
  have hbusy : s.seq ≠ .idle := by simp [hq]
  refine ⟨_, step_of_digOn hv hu hr hq, fun i hi => ?_, fun hm => ?_, fun hm => ?_, digOnOp_frame _⟩
  · rw [digOnOp_digAct, litDigits_getLsbD_of_le (s := afterInputs s) hcount hi, phase_afterInputs, phase_eq]
    rfl
  · obtain ⟨hlow, hhigh⟩ := hsweepT hbusy hm
    rw [digOnOp_of_sweep (s := afterInputs s) hm]
    exact ⟨holdLoad_toNat hv hlow hhigh, if_congr (holdLoad_eq_zero_iff s) rfl rfl⟩
  · rw [digOnOp_of_step (s := afterInputs s) hm]
    exact ⟨rfl, rfl⟩

/-- A counter above 0 counts down without wrapping (R135). -/
theorem holdCnt_pred_toNat {c : BitVec 32} (h : c ≠ 0#32) : (c - 1#32).toNat + 1 = c.toNat := by bv_omega

/-- Settles O50: the invariant's HOLD counter is above 0. -/
theorem holdCountsDown : Obligations.HoldCountsDown := by
  rintro s ⟨hv, hu, -, -, -, ⟨-, -, -, -, hhold, -⟩, -⟩ hr hq
  have hpred := holdCnt_pred_toNat (hhold.mp hq)
  refine ⟨_, step_of_hold hv hu hr hq, hpred, ?_, rfl⟩
  rw [holdOp_seq, afterInputs_holdCnt]
  refine if_congr ?_ rfl rfl
  rw [← BitVec.toNat_inj, BitVec.toNat_zero]
  omega

/-- Settles O51. -/
theorem digOffDeassertsEveryDigit : Obligations.DigOffDeassertsEveryDigit :=
  fun _ hv hu hr hq => step_of_digOff hv hu hr hq

/-- Settles O52: SEG_OFF clears the phase's bit by an `and` with its complement; its three ways on are those of the mode and of
the last phase. -/
theorem segOffEndsThePhase : Obligations.SegOffEndsThePhase := by
  intro s hv hu hr hq
  refine ⟨_, step_of_segOff hv hu hr hq, fun k hk => ?_, fun hm hj => ?_, fun hm hj => ?_, fun hm => ?_, segOffOp_frame _⟩
  · rw [segOffOp_segAct, BitVec.getLsbD_and, BitVec.getLsbD_not, lineBit_getLsbD, phase_afterInputs, phase_eq]
    simp [hk, eq_comm]
  · have hlast : s.curSeg = 7#3 := BitVec.eq_of_toNat_eq hj
    rw [segOffOp_of_last_phase (s := afterInputs s) hm hlast]
    exact ⟨rfl, rfl⟩
  · have hlast : s.curSeg ≠ 7#3 := fun h => by simp [h] at hj
    rw [segOffOp_of_sweep (s := afterInputs s) hm hlast]
    refine ⟨?_, rfl⟩
    rw [afterInputs_curSeg, BitVec.toNat_add, BitVec.toNat_ofNat, Nat.mod_eq_of_lt (by omega)]
  · rw [segOffOp_of_step (s := afterInputs s) hm]
    exact ⟨rfl, rfl⟩

/-- Settles O53: `nextPos` is the new `pos`, which fits its register. -/
theorem advWrapsAtTheStretchedPeriod : Obligations.AdvWrapsAtTheStretchedPeriod := by
  intro s hv hu hr hq
  have hpos : (advOp (afterInputs s)).pos.toNat = nextPos s := nextPos_toNat (afterInputs s)
  refine ⟨_, step_of_adv hv hu hr hq, hpos, ?_, ?_, rfl⟩
  · rw [hpos]
    exact nextPos_lt s
  · rw [hpos]
    rfl

end Sys2Proof.Machine
end

section
/-! PROOFS. Every edge keeps the invariant, and the guarantees of the lines that follow from it (R145 to R148). -/

namespace Sys2Proof.Machine

/-! ### What the micro-operations leave alone -/

/-- A micro-operation writes the sequencer, the lines and `pos`, and nothing else (R28, R131). -/
theorem microStep_frame (s : State) :
    microStep s = { s with seq := (microStep s).seq, curSeg := (microStep s).curSeg, holdCnt := (microStep s).holdCnt,
                           segAct := (microStep s).segAct, digAct := (microStep s).digAct, pos := (microStep s).pos } := by
  unfold microStep
  split
  case h_3 => apply State.ext <;> simp
  case h_6 => apply State.ext <;> simp
  all_goals rfl

/-- The part of the invariant that is not about the sequencer passes over the frame of a micro-operation. -/
theorem inv_of_sequencer_frame {s t : State} (h : s.Inv)
    (ht : t = { s with seq := t.seq, curSeg := t.curSeg, holdCnt := t.holdCnt, segAct := t.segAct, digAct := t.digAct,
                       pos := t.pos })
    (hseq : sequencerInv t) (hline : lineInv t) : t.Inv := by
  obtain ⟨hv, hu, hconf, hbright, hmask, -, -⟩ := h
  rw [ht] at hseq hline ⊢
  exact ⟨hv, hu, hconf, hbright, hmask, hseq, hline⟩

@[simp] theorem phase_segOnOp (s : State) : phase (segOnOp s) = phase s := rfl
@[simp] theorem phase_holdOp (s : State) : phase (holdOp s) = phase s := rfl
@[simp] theorem phase_digOffOp (s : State) : phase (digOffOp s) = phase s := rfl
@[simp] theorem phase_digOnOp (s : State) : phase (digOnOp s) = phase s := by simp [phase_eq]

@[simp] theorem litDigits_holdOp (s : State) : litDigits (holdOp s) = litDigits s := rfl

@[simp] theorem litDigits_digOnOp (s : State) : litDigits (digOnOp s) = litDigits s :=
  litDigits_congr (digOnOp_params s) (digOnOp_digitCount s) (digOnOp_mask s) (phase_digOnOp s)

/-- DIG_ON asserts no undeclared digit line (R134, R147). -/
theorem litDigits_undeclared {s : State} {i : Nat} (hi : i < 8) (h : s.digitCount.toNat ≤ i) :
    (litDigits s).getLsbD i = false := by simp [litDigits_getLsbD s i hi, h]

/-- The hold counter is loaded with 0 exactly when DIG_ON skips HOLD (R134). -/
theorem holdCnt_load_eq_zero_iff {s : State} (h : s.params.valid = true) (h1 : 1 ≤ s.sweepT.toNat)
    (h2 : s.sweepT.toNat ≤ s.params.onTimeMax) : BitVec.ofInt 32 (holdLoad s) = 0#32 ↔ holdLoad s = 0 := by
  have hload := holdLoad_toNat h h1 h2
  have hzero := holdLoad_eq_zero_iff s
  obtain ⟨-, -, -, -, -, hcyc, -⟩ := (Params.valid_iff s.params).mp h
  have hpos : 1 ≤ s.sweepT.toNat * s.params.cyclesPerUs := Nat.mul_pos h1 hcyc
  rw [← BitVec.toNat_inj, BitVec.toNat_zero]
  omega

/-! ### What the invariant says of the sequencer and the lines, micro-operation by micro-operation -/

/-- What holds of the sequencer whenever a micro-operation is pending (R132, R139). -/
abbrev running (s : State) : Prop :=
  s.cfgDone = true ∧ s.seqMode = s.strategy ∧
  (s.seqMode = .sweep → 1 ≤ s.sweepT.toNat ∧ s.sweepT.toNat ≤ s.params.onTimeMax) ∧
  (s.strategy = .step → s.curSeg = 0#3) ∧ s.pos.toNat < 8 + s.params.skipMax

/-- A micro-operation other than ADV has a segment phase (R132). -/
abbrev onSegmentPhase (s : State) : Prop := running s ∧ (s.seqMode = .step → s.pos.toNat < 8)

/-- No undeclared digit line is asserted (R147). -/
abbrev undeclaredOff (s : State) : Prop := ∀ i < 8, s.digitCount.toNat ≤ i → s.digAct.getLsbD i = false

/-- Every line is off in SWEEP mode; in STEP mode every line may be off, or the phase's segment line on (R148, R149). -/
abbrev linesAtRest (s : State) : Prop :=
  (s.strategy = .sweep → s.segAct = 0#8 ∧ s.digAct = 0#8) ∧
  (s.strategy = .step → (s.segAct = 0#8 ∧ s.digAct = 0#8 ∧ (s.pos = 0#9 ∨ 8 ≤ s.pos.toNat)) ∨
    (s.pos.toNat < 8 ∧ s.segAct = lineBit s.pos.toNat))

section
variable {s : State}

theorem inv_at_idle (hq : s.seq = .idle) : sequencerInv s ∧ lineInv s ↔
    s.holdCnt = 0#32 ∧ s.curSeg = 0#3 ∧ s.pos.toNat < 8 + s.params.skipMax ∧ linesAtRest s ∧ undeclaredOff s := by
  simp [sequencerInv, lineInv, hq, and_assoc]

theorem inv_at_segOn (hq : s.seq = .segOn) : sequencerInv s ∧ lineInv s ↔
    onSegmentPhase s ∧ s.holdCnt = 0#32 ∧ s.segAct = 0#8 ∧ s.digAct = 0#8 := by
  simp only [sequencerInv, lineInv, hq]
  grind

theorem inv_at_digOn (hq : s.seq = .digOn) : sequencerInv s ∧ lineInv s ↔
    onSegmentPhase s ∧ s.holdCnt = 0#32 ∧ s.segAct = lineBit (phase s) ∧ s.digAct = 0#8 := by
  simp only [sequencerInv, lineInv, hq]
  grind

theorem inv_at_hold (hq : s.seq = .hold) : sequencerInv s ∧ lineInv s ↔
    onSegmentPhase s ∧ s.seqMode = .sweep ∧ s.holdCnt ≠ 0#32 ∧ s.segAct = lineBit (phase s) ∧
      s.digAct = litDigits s := by
  have hundecl := fun i => litDigits_undeclared (s := s) (i := i)
  simp only [sequencerInv, lineInv, hq]
  grind

theorem inv_at_digOff (hq : s.seq = .digOff) : sequencerInv s ∧ lineInv s ↔
    onSegmentPhase s ∧ s.holdCnt = 0#32 ∧
      (s.seqMode = .sweep → s.segAct = lineBit (phase s) ∧ s.digAct = litDigits s) ∧
      (s.seqMode = .step → (s.segAct = 0#8 ∧ s.digAct = 0#8) ∨ s.segAct = lineBit (phase s)) ∧ undeclaredOff s := by
  simp only [sequencerInv, lineInv, hq]
  grind

theorem inv_at_segOff (hq : s.seq = .segOff) : sequencerInv s ∧ lineInv s ↔
    onSegmentPhase s ∧ s.holdCnt = 0#32 ∧ s.digAct = 0#8 ∧
      (s.segAct = lineBit (phase s) ∨ (s.seqMode = .step ∧ s.segAct = 0#8)) := by
  simp only [sequencerInv, lineInv, hq]
  grind

theorem inv_at_adv (hq : s.seq = .adv) : sequencerInv s ∧ lineInv s ↔
    running s ∧ s.seqMode = .step ∧ s.holdCnt = 0#32 ∧ s.segAct = 0#8 ∧ s.digAct = 0#8 := by
  simp only [sequencerInv, lineInv, hq]
  grind

end

theorem sequencing_of_inv {s : State} (h : s.Inv) : sequencerInv s ∧ lineInv s := by
  obtain ⟨-, -, -, -, -, hseq, hline⟩ := h
  exact ⟨hseq, hline⟩

/-! ### Each micro-operation hands its part of the invariant to the next -/

section
variable {s : State} (h : s.Inv)
include h

theorem segOnOp_keeps_inv (hq : s.seq = .segOn) : sequencerInv (segOnOp s) ∧ lineInv (segOnOp s) := by
  obtain ⟨hrun, hhold, hseg, hdig⟩ := (inv_at_segOn hq).mp (sequencing_of_inv h)
  refine (inv_at_digOn rfl).mpr ⟨hrun, hhold, ?_, hdig⟩
  rw [segOnOp_segAct, hseg, zero_or_lineBit, phase_segOnOp]

theorem digOnOp_keeps_inv (hq : s.seq = .digOn) : sequencerInv (digOnOp s) ∧ lineInv (digOnOp s) := by
  obtain ⟨hphase, hhold, hseg, -⟩ := (inv_at_digOn hq).mp (sequencing_of_inv h)
  obtain ⟨hv, -⟩ := h
  cases hm : s.seqMode with
  | sweep =>
    have ⟨⟨_, _, hsweepT, _⟩, _⟩ := hphase
    obtain ⟨hlow, hhigh⟩ := hsweepT hm
    have hload := holdCnt_load_eq_zero_iff hv hlow hhigh
    have hlit := litDigits_digOnOp s
    rw [digOnOp_of_sweep hm] at hlit ⊢
    by_cases hzero : holdLoad s = 0
    · exact (inv_at_digOff (if_pos hzero)).mpr ⟨hphase, hload.mpr hzero, fun _ => ⟨hseg, hlit.symm⟩, fun _ => .inr hseg,
        fun i hi => litDigits_undeclared hi⟩
    · exact (inv_at_hold (if_neg hzero)).mpr ⟨hphase, hm, fun e => hzero (hload.mp e), hseg, hlit.symm⟩
  | step =>
    obtain ⟨⟨-, hmode, -, hcur, hpos⟩, hlt⟩ := hphase
    have hs : s.strategy = .step := hmode.symm.trans hm
    rw [phase_step hm] at hseg
    rw [digOnOp_of_step hm]
    exact (inv_at_idle rfl).mpr ⟨hhold, hcur hs, hpos, ⟨by simp [hs], fun _ => .inr ⟨hlt hm, hseg⟩⟩,
      fun i hi => litDigits_undeclared hi⟩

theorem holdOp_keeps_inv (hq : s.seq = .hold) : sequencerInv (holdOp s) ∧ lineInv (holdOp s) := by
  obtain ⟨hphase, hm, -, hseg, hdig⟩ := (inv_at_hold hq).mp (sequencing_of_inv h)
  by_cases hend : s.holdCnt - 1#32 = 0#32
  · refine (inv_at_digOff (if_pos hend)).mpr ⟨hphase, hend, fun _ => ⟨hseg, hdig⟩, fun _ => .inr hseg, fun i hi hn => ?_⟩
    rw [holdOp_digAct, hdig]
    exact litDigits_undeclared hi hn
  · exact (inv_at_hold (if_neg hend)).mpr ⟨hphase, hm, hend, hseg, hdig⟩

theorem digOffOp_keeps_inv (hq : s.seq = .digOff) : sequencerInv (digOffOp s) ∧ lineInv (digOffOp s) := by
  obtain ⟨hrun, hhold, hsweep, hstep, -⟩ := (inv_at_digOff hq).mp (sequencing_of_inv h)
  refine (inv_at_segOff rfl).mpr ⟨hrun, hhold, rfl, ?_⟩
  cases hm : s.seqMode with
  | sweep => exact .inl (hsweep hm).1
  | step =>
    obtain ⟨hoff, -⟩ | hon := hstep hm
    · exact .inr ⟨hm, hoff⟩
    · exact .inl hon

theorem segOffOp_keeps_inv (hq : s.seq = .segOff) : sequencerInv (segOffOp s) ∧ lineInv (segOffOp s) := by
  obtain ⟨⟨⟨hcfg, hmode, hsweepT, hcur, hpos⟩, -⟩, hhold, hdig, hseg⟩ := (inv_at_segOff hq).mp (sequencing_of_inv h)
  have hoff : s.segAct &&& ~~~lineBit (phase s) = 0#8 := by
    obtain hseg | ⟨-, hseg⟩ := hseg
    · rw [hseg, lineBit_and_not_self]
    · rw [hseg, zero_and_not_lineBit]
  have hundecl : undeclaredOff s := fun i _ _ => by simp [hdig]
  cases hm : s.seqMode with
  | sweep =>
    have hs : s.strategy = .sweep := hmode.symm.trans hm
    by_cases hlast : s.curSeg = 7#3
    · rw [segOffOp_of_last_phase hm hlast]
      exact (inv_at_idle rfl).mpr ⟨hhold, rfl, hpos, ⟨fun _ => ⟨hoff, hdig⟩, by simp [hs]⟩, hundecl⟩
    · rw [segOffOp_of_sweep hm hlast]
      exact (inv_at_segOn rfl).mpr ⟨⟨⟨hcfg, hmode, hsweepT, by simp [hs], hpos⟩, by simp [hm]⟩, hhold, hoff, hdig⟩
  | step =>
    rw [segOffOp_of_step hm]
    exact (inv_at_adv rfl).mpr ⟨⟨hcfg, hmode, hsweepT, hcur, hpos⟩, hm, hhold, hoff, hdig⟩

theorem advOp_keeps_inv (hq : s.seq = .adv) : sequencerInv (advOp s) ∧ lineInv (advOp s) := by
  obtain ⟨⟨hcfg, hmode, hsweepT, hcur, -⟩, hm, hhold, hseg, hdig⟩ := (inv_at_adv hq).mp (sequencing_of_inv h)
  obtain ⟨-, -, -, ⟨-, -, hskip⟩, -⟩ := h
  have hs : s.strategy = .step := hmode.symm.trans hm
  have hnext : (advOp s).pos.toNat = nextPos s := nextPos_toNat s
  have hpos : (advOp s).pos.toNat < 8 + s.params.skipMax := by
    have := nextPos_lt s
    omega
  by_cases h8 : nextPos s < 8
  · exact (inv_at_segOn (if_pos h8)).mpr
      ⟨⟨⟨hcfg, hmode, hsweepT, hcur, hpos⟩, fun _ => hnext.trans_lt h8⟩, hhold, hseg, hdig⟩
  · exact (inv_at_idle (if_neg h8)).mpr ⟨hhold, hcur hs, hpos,
      ⟨by simp [hs], fun _ => .inl ⟨hseg, hdig, .inr (by omega)⟩⟩, fun i _ _ => by simp [hdig]⟩
end

/-- A micro-operation keeps the invariant. -/
theorem microStep_keeps_inv {s : State} (h : s.Inv) : (microStep s).Inv := by
  suffices hpart : sequencerInv (microStep s) ∧ lineInv (microStep s) from
    inv_of_sequencer_frame h (microStep_frame s) hpart.1 hpart.2
  unfold microStep
  split
  case h_1 =>
    obtain ⟨-, -, -, -, -, hseq, hline⟩ := h
    exact ⟨hseq, hline⟩
  case h_2 hq => exact segOnOp_keeps_inv h hq
  case h_3 hq => exact digOnOp_keeps_inv h hq
  case h_4 hq => exact holdOp_keeps_inv h hq
  case h_5 hq => exact digOffOp_keeps_inv h hq
  case h_6 hq => exact segOffOp_keeps_inv h hq
  case h_7 hq => exact advOp_keeps_inv h hq

/-! ### The commands keep the invariant -/

section
variable {s : State} (h : s.Inv) (hq : s.seq = .idle)
include h

/-- Before configuration the mask buffer lists nothing (R27, R42). -/
theorem mask_eq_nil_of_unconfigured (hc : s.cfgDone = false) : s.mask = [] := by
  obtain ⟨-, -, ⟨hunconf, -⟩, -, ⟨-, hlow⟩, -⟩ := h
  exact List.eq_nil_iff_forall_not_mem.mpr fun c hmem => by simpa [hunconf hc] using hlow c hmem

/-- The blank masks of the first CONFIGURE list nothing (R180). -/
theorem blankMasks_eq_nil (hc : s.cfgDone = false) : blankMasks s = [] := by
  have hnil := mask_eq_nil_of_unconfigured h hc
  obtain ⟨hv, -⟩ := h
  obtain ⟨-, -, hblank, -⟩ := Params.table_spec hv
  rw [blankMasks, hnil]
  refine Memory.eq_nil_of_read (Memory.writeEach_wf Memory.wf_nil _ _) fun a => ?_
  rw [Memory.read_writeEach Memory.wf_nil]
  split <;> simp [hblank]

include hq

/-- A command that writes declared masks only keeps the invariant: an idle block's lines do not depend on the masks (R56). -/
theorem withMask_keeps_inv {m : Memory} (hwf : Memory.wf m) (hlow : ∀ c ∈ m, c.1 < s.digitCount.toNat) :
    State.Inv { s with mask := m } := by
  have hrest := (inv_at_idle hq).mp (sequencing_of_inv h)
  obtain ⟨hv, hu, hconf, hbright, -⟩ := h
  exact ⟨hv, hu, hconf, hbright, ⟨hwf, hlow⟩, (inv_at_idle (s := { s with mask := m }) hq).mpr hrest⟩

/-- The batch write of declared positions keeps the invariant (R113, R115). -/
theorem writeEach_keeps_inv {n : Nat} (f : Nat → Option Byte) (hn : n ≤ s.digitCount.toNat) :
    State.Inv { s with mask := Memory.writeEach n f s.mask } := by
  have ⟨_, _, _, _, ⟨hwf, hlow⟩, _⟩ := h
  refine withMask_keeps_inv h hq (Memory.writeEach_wf hwf n f) fun c hc => ?_
  obtain hold | hnew := Memory.mem_writeEach hc
  · exact hlow c hold
  · omega

/-- The brightness registers may take any value in range (R29). -/
theorem withBrightness_keeps_inv {o : BitVec 16} {k : BitVec 8} (h1 : 1 ≤ o.toNat) (h2 : o.toNat ≤ s.params.onTimeMax)
    (hk : k.toNat ≤ s.params.skipMax) : State.Inv { s with onTime := o, skip := k } := by
  have hrest := (inv_at_idle hq).mp (sequencing_of_inv h)
  obtain ⟨hv, hu, hconf, -, hmask, -⟩ := h
  exact ⟨hv, hu, hconf, ⟨h1, h2, hk⟩, hmask, (inv_at_idle (s := { s with onTime := o, skip := k }) hq).mpr hrest⟩

/-- The first CONFIGURE keeps the invariant (R180). -/
theorem configureOnce_keeps_inv (pol : Polarity) (strat : Strategy) (dcnt : BitVec 4) (hc : s.cfgDone = false) :
    (configureOnce pol strat dcnt s).Inv := by
  have hblank := blankMasks_eq_nil h hc
  obtain ⟨hhold, hcur, -⟩ := (inv_at_idle hq).mp (sequencing_of_inv h)
  obtain ⟨hv, hu, -, hbright, -⟩ := h
  obtain ⟨hmin, -⟩ := (Params.valid_iff s.params).mp hv
  have hcount := configuredCount_toNat hv dcnt
  have hlow := clamp_lower (v := dcnt.toNat) (show (1 : Int) ≤ s.params.maxDigits by omega)
  have hhigh := clamp_upper (v := dcnt.toNat) (show (1 : Int) ≤ s.params.maxDigits by omega)
  have hconf : configInv (configureOnce pol strat dcnt s) := by
    refine ⟨by simp, fun _ => ⟨?_, ?_, rfl, rfl⟩⟩
    · rw [configureOnce_digitCount]
      omega
    · rw [configureOnce_digitCount, configureOnce_params]
      omega
  have hmask : maskInv (configureOnce pol strat dcnt s) := by
    rw [maskInv, configureOnce_mask, hblank]
    exact ⟨Memory.wf_nil, by simp⟩
  exact ⟨hv, hu, hconf, hbright, hmask, (inv_at_idle (s := configureOnce pol strat dcnt s) hq).mpr
    ⟨hhold, hcur, by simp, ⟨fun _ => ⟨rfl, rfl⟩, fun _ => .inl ⟨rfl, rfl, .inl rfl⟩⟩, fun i _ _ => by simp⟩⟩

/-- An accepted REFRESH or REFRESH.T starts a sweep from dark lines (R140, R141, R148). -/
theorem startSweep_keeps_inv {t : BitVec 16} (hc : s.cfgDone = true) (hs : s.strategy = .sweep) (h1 : 1 ≤ t.toNat)
    (h2 : t.toNat ≤ s.params.onTimeMax) : (startSweep t s).Inv := by
  obtain ⟨hhold, -, hpos, ⟨hdark, -⟩, -⟩ := (inv_at_idle hq).mp (sequencing_of_inv h)
  obtain ⟨hv, hu, hconf, hbright, hmask, -⟩ := h
  exact ⟨hv, hu, hconf, hbright, hmask, (inv_at_segOn rfl).mpr
    ⟨⟨⟨hc, hs.symm, fun _ => ⟨h1, h2⟩, fun _ => rfl, hpos⟩, by simp⟩, hhold, hdark hs⟩⟩

/-- An accepted ADVANCE_STEP starts from the lines of its phase, or from dark ones (R142, R149). -/
theorem startStep_keeps_inv (hc : s.cfgDone = true) (hs : s.strategy = .step) :
    State.Inv { s with seqMode := .step, seq := if s.pos.toNat < 8 then .digOff else .adv } := by
  obtain ⟨hhold, hcur, hpos, ⟨-, hlit⟩, hundecl⟩ := (inv_at_idle hq).mp (sequencing_of_inv h)
  obtain ⟨hv, hu, hconf, hbright, hmask, -⟩ := h
  refine ⟨hv, hu, hconf, hbright, hmask, ?_⟩
  by_cases h8 : s.pos.toNat < 8
  · refine (inv_at_digOff (if_pos h8)).mpr
      ⟨⟨⟨hc, hs.symm, by simp, fun _ => hcur, hpos⟩, fun _ => h8⟩, hhold, by simp, fun _ => ?_, hundecl⟩
    obtain ⟨hseg, hdig, -⟩ | ⟨-, hseg⟩ := hlit hs
    · exact .inl ⟨hseg, hdig⟩
    · exact .inr hseg
  · obtain ⟨hseg, hdig, -⟩ | ⟨hlt, -⟩ := hlit hs
    · exact (inv_at_adv (if_neg h8)).mpr ⟨⟨hc, hs.symm, by simp, fun _ => hcur, hpos⟩, rfl, hhold, hseg, hdig⟩
    · exact absurd hlt h8
end

/-! ### The commands, by what they do -/

section
variable {s : State}

theorem exec_refresh_effective (hc : s.cfgDone = true) (hs : s.strategy = .sweep) :
    exec .refresh s = .next (startSweep s.onTime s) := by simp [exec, execRefresh, hc, hs]

theorem exec_refresh_ineffective (h : ¬(s.cfgDone = true ∧ s.strategy = .sweep)) : exec .refresh s = .next s := by
  simp only [exec, execRefresh, if_neg h]

theorem exec_refreshT_effective (ot : BitVec 16) (hc : s.cfgDone = true) (hs : s.strategy = .sweep) :
    exec (.refreshT ot) s = .next (startSweep (sweepOnTime s.params ot) s) := by simp [exec, execRefreshT, hc, hs]

theorem exec_refreshT_ineffective (ot : BitVec 16) (h : ¬(s.cfgDone = true ∧ s.strategy = .sweep)) :
    exec (.refreshT ot) s = .next s := by simp only [exec, execRefreshT, if_neg h]

theorem exec_advanceStep_effective (hc : s.cfgDone = true) (hs : s.strategy = .step) :
    exec .advanceStep s = .next { s with seqMode := .step, seq := if s.pos.toNat < 8 then .digOff else .adv } := by
  simp [exec, execAdvanceStep, hc, hs]

theorem exec_advanceStep_ineffective (h : ¬(s.cfgDone = true ∧ s.strategy = .step)) :
    exec .advanceStep s = .next s := by simp only [exec, execAdvanceStep, if_neg h]

theorem exec_setBrightness_sweep (val : Int) (hc : s.cfgDone = true) (hs : s.strategy = .sweep) :
    exec (.setBrightness val) s = .next { s with onTime := BitVec.ofInt 16 (mapOnTime s.params val) } := by
  simp [exec, execSetBrightness, hc, hs]

theorem exec_setBrightness_step (val : Int) (hc : s.cfgDone = true) (hs : s.strategy = .step) :
    exec (.setBrightness val) s = .next { s with skip := BitVec.ofInt 8 (mapSkip s.params val) } := by
  simp [exec, execSetBrightness, hc, hs]
end

/-- The on-time of a REFRESH.T is in range (R141). -/
theorem sweepOnTime_bounds {p : Params} (hv : p.valid = true) (ot : BitVec 16) :
    1 ≤ (sweepOnTime p ot).toNat ∧ (sweepOnTime p ot).toNat ≤ p.onTimeMax := by
  obtain ⟨-, -, hmax, -⟩ := (Params.valid_iff p).mp hv
  have hval := sweepOnTime_toNat hv ot
  have hlow := clamp_lower (v := ot.toNat) (show (1 : Int) ≤ p.onTimeMax by omega)
  have hhigh := clamp_upper (v := ot.toNat) (show (1 : Int) ≤ p.onTimeMax by omega)
  omega

/-- A command of a configured, idle block keeps the invariant. -/
theorem exec_configured_keeps_inv {i : Instr} {s t : State} (h : s.Inv) (hq : s.seq = .idle) (hc : s.cfgDone = true)
    (he : exec i s = .next t) : t.Inv := by
  have ⟨hv, _, _, ⟨hmin, hmax, hskip⟩, ⟨hwf, hlow⟩, _, _⟩ := h
  cases i with
  | nop => cases he; exact h
  | reserved op => cases he; exact h
  | configure pol strat dcnt => rw [exec_configure_again pol strat dcnt hc] at he; cases he
  | setDigit pos sym =>
    by_cases hd : s.cfgDone = true ∧ pos.toNat < s.digitCount.toNat ∧ sym.toNat ≤ 17
    · obtain ⟨-, hpos, hsym⟩ := hd
      rw [exec_setDigit_effective hc hpos hsym] at he
      cases he
      refine withMask_keeps_inv h hq (Memory.write_wf hwf _ _) fun c hmem => ?_
      rcases Memory.mem_write hmem with hold | ⟨rfl, -⟩
      · exact hlow c hold
      · exact hpos
    · rw [exec_setDigit_ineffective hd] at he; cases he; exact h
  | setDigits cnt y0 y1 y2 y3 y4 y5 y6 y7 =>
    by_cases hd : s.cfgDone = true ∧ cnt.toNat ≤ s.digitCount.toNat
    · obtain ⟨-, hcnt⟩ := hd
      rw [exec_setDigits_effective hc hcnt] at he; cases he; exact writeEach_keeps_inv h hq _ hcnt
    · rw [exec_setDigits_ineffective hd] at he; cases he; exact h
  | setNumber sgn dp val =>
    cases hb : s.params.hasSetNumber with
    | true => rw [exec_setNumber_effective hb hc] at he; cases he; exact writeEach_keeps_inv h hq _ le_rfl
    | false => rw [exec_setNumber_ineffective (.inl hb)] at he; cases he; exact h
  | setBrightness val =>
    cases hs : s.strategy with
    | sweep =>
      rw [exec_setBrightness_sweep val hc hs] at he
      cases he
      have hreg := onTime_register hv val
      obtain ⟨hlow', hhigh'⟩ := mapOnTime_bounds hv val
      exact withBrightness_keeps_inv h hq (by omega) (by omega) hskip
    | step =>
      rw [exec_setBrightness_step val hc hs] at he
      cases he
      have hreg := skip_register hv val
      obtain ⟨-, hhigh'⟩ := mapSkip_bounds s.params val
      exact withBrightness_keeps_inv h hq hmin hmax (by omega)
  | refresh =>
    cases hs : s.strategy with
    | sweep =>
      rw [exec_refresh_effective hc hs] at he
      cases he
      exact startSweep_keeps_inv h hq hc hs hmin hmax
    | step => rw [exec_refresh_ineffective (by simp [hs])] at he; cases he; exact h
  | refreshT ot =>
    cases hs : s.strategy with
    | sweep =>
      rw [exec_refreshT_effective ot hc hs] at he
      cases he
      obtain ⟨hlow', hhigh'⟩ := sweepOnTime_bounds hv ot
      exact startSweep_keeps_inv h hq hc hs hlow' hhigh'
    | step => rw [exec_refreshT_ineffective ot (by simp [hs])] at he; cases he; exact h
  | advanceStep =>
    cases hs : s.strategy with
    | sweep => rw [exec_advanceStep_ineffective (by simp [hs])] at he; cases he; exact h
    | step =>
      rw [exec_advanceStep_effective hc hs] at he
      cases he
      exact startStep_keeps_inv h hq hc hs

/-- A command of an idle block keeps the invariant: before configuration CONFIGURE alone does anything (R185). -/
theorem exec_keeps_inv {i : Instr} {s t : State} (h : s.Inv) (hq : s.seq = .idle) (he : exec i s = .next t) : t.Inv := by
  cases hc : s.cfgDone with
  | true => exact exec_configured_keeps_inv h hq hc he
  | false =>
    by_cases hi : ∃ pol strat dcnt, i = .configure pol strat dcnt
    · obtain ⟨pol, strat, dcnt, rfl⟩ := hi
      rw [exec_configure_first pol strat dcnt hc] at he
      cases he
      exact configureOnce_keeps_inv h hq pol strat dcnt hc
    · rw [exec_unconfigured hc fun pol strat dcnt e => hi ⟨pol, strat, dcnt, e⟩] at he
      cases he
      exact h

/-! ### Every edge keeps the invariant -/

/-- Reset establishes the invariant (R42, R220). -/
theorem resetEdge_inv {s : State} (hv : s.params.valid = true) : (resetEdge s).Inv := by
  obtain ⟨-, -, hmax, -⟩ := (Params.valid_iff s.params).mp hv
  have hon := resetEdge_onTime_toNat hv
  refine ⟨hv, rfl, ⟨by simp, by simp⟩, ⟨?_, ?_, by simp⟩, ⟨Memory.wf_nil, by simp⟩, by simp [sequencerInv],
    by simp [lineInv]⟩
  · rw [hon]; exact hmax
  · rw [hon, resetEdge_params]

/-- The invariant does not speak of the coming inputs. -/
theorem withInputs_inv {s : State} (h : s.Inv) (l : List EdgeInput) : (s.withInputs l).Inv := h

theorem step_keeps_inv {s t : State} (h : s.Inv) (hs : step s = .next t) : t.Inv := by
  have hafter : (afterInputs s).Inv := withInputs_inv h _
  obtain ⟨hv, ⟨-, rfl⟩ | ⟨-, -, hidle, -, he⟩ | ⟨-, -, -, -, rfl⟩ | ⟨-, -, -, rfl⟩⟩ := step_next_cases hs
  · exact resetEdge_inv hv
  · exact exec_keeps_inv hafter hidle he
  · exact hafter
  · exact microStep_keeps_inv hafter

theorem reachable_inv {s : State} (h : Reachable s) : s.Inv := by
  induction h with
  | start p hv l n => exact resetEdge_inv (s := { State.resetWith p with inputs := l, freeCount := n }) hv
  | edge s t _ hs ih => exact step_keeps_inv ih hs

/-! ### The guarantees of the lines (R145 to R148) -/

/-- The segment lines are all off, or one line alone is on. -/
theorem segAct_of_inv {s : State} (h : s.Inv) : s.segAct = 0#8 ∨ ∃ j, s.segAct = lineBit j := by
  have hpart := sequencing_of_inv h
  cases hq : s.seq with
  | idle =>
    obtain ⟨-, -, -, ⟨hdark, hlit⟩, -⟩ := (inv_at_idle hq).mp hpart
    cases hs : s.strategy with
    | sweep => exact .inl (hdark hs).1
    | step =>
      obtain ⟨hseg, -⟩ | ⟨-, hseg⟩ := hlit hs
      · exact .inl hseg
      · exact .inr ⟨_, hseg⟩
  | segOn =>
    obtain ⟨-, -, hseg, -⟩ := (inv_at_segOn hq).mp hpart
    exact .inl hseg
  | digOn =>
    obtain ⟨-, -, hseg, -⟩ := (inv_at_digOn hq).mp hpart
    exact .inr ⟨_, hseg⟩
  | hold =>
    obtain ⟨-, -, -, hseg, -⟩ := (inv_at_hold hq).mp hpart
    exact .inr ⟨_, hseg⟩
  | digOff =>
    obtain ⟨-, -, hsweep, hstep, -⟩ := (inv_at_digOff hq).mp hpart
    cases hm : s.seqMode with
    | sweep => exact .inr ⟨_, (hsweep hm).1⟩
    | step =>
      obtain ⟨hseg, -⟩ | hseg := hstep hm
      · exact .inl hseg
      · exact .inr ⟨_, hseg⟩
  | segOff =>
    obtain ⟨-, -, -, hseg | ⟨-, hseg⟩⟩ := (inv_at_segOff hq).mp hpart
    · exact .inr ⟨_, hseg⟩
    · exact .inl hseg
  | adv =>
    obtain ⟨-, -, -, hseg, -⟩ := (inv_at_adv hq).mp hpart
    exact .inl hseg

/-- Settles O18: in a reachable state `segAct` is 0 or one line's bit. -/
theorem atMostOneSegmentLine : Obligations.AtMostOneSegmentLine := by
  intro s hr _ j k hj hk
  obtain hoff | ⟨i, hon⟩ := segAct_of_inv (reachable_inv hr)
  · simp [hoff] at hj
  · rw [hon, lineBit_getLsbD, decide_eq_true_eq] at hj hk
    omega

/-- Settles O19, by what the invariant says where SEG_ON is pending. -/
theorem digitsAreOffBeforeASegmentGoesOn : Obligations.DigitsAreOffBeforeASegmentGoesOn := by
  intro s hr hq
  obtain ⟨-, -, -, hdig⟩ := (inv_at_segOn hq).mp (sequencing_of_inv (reachable_inv hr))
  exact hdig

/-- Settles O20: the invariant's clause on the undeclared digits for the eight bits there are. -/
theorem undeclaredDigitsAreNeverAsserted : Obligations.UndeclaredDigitsAreNeverAsserted := by
  intro s hr i hi
  obtain ⟨-, -, -, -, -, -, -, -, -, hundecl⟩ := (sequencing_of_inv (reachable_inv hr)).2
  by_cases h8 : i < 8
  · exact hundecl i h8 hi
  · exact BitVec.getLsbD_of_ge _ _ (by omega)

/-- Settles O21, by what the invariant says of an idle block. -/
theorem sweepModeIsDarkWhenIdle : Obligations.SweepModeIsDarkWhenIdle := by
  intro s hr hs hq
  obtain ⟨-, -, -, ⟨hdark, -⟩, -⟩ := (inv_at_idle hq).mp (sequencing_of_inv (reachable_inv hr))
  exact hdark hs

end Sys2Proof.Machine
end

section
/-! PROOFS. The hold of a phase and the sweep of eight phases, edge by edge (R136, R140, R141). -/

namespace Sys2Proof.Machine

/-! ### The schedule of a sweep -/

/-- `sweep_t × CYCLES_PER_US`: the clock periods the digits of a phase stay on (R136). -/
def onCycles (s : State) : Nat := s.sweepT.toNat * s.params.cyclesPerUs

/-- The micro-operation pending at position `r` of a phase with `K` periods of digits on (R140). -/
def phaseOp (K r : Nat) : Seq :=
  if r = 0 then .segOn else if r = 1 then .digOn else if r ≤ K then .hold else if r = K + 1 then .digOff else .segOff

/-- The digits shown in phase `j` of a sweep (R134). -/
def phaseDigits (s : State) (j : Nat) : Byte := litDigits { s with curSeg := BitVec.ofNat 3 j }

/-- The state at position `r` of phase `j` of the sweep that `s` is part of, the host inputs `l` to come (R132 to R138). -/
def sweepAt (s : State) (j r : Nat) (l : List EdgeInput) : State :=
  { s with
    seq := phaseOp (onCycles s) r
    curSeg := BitVec.ofNat 3 j
    holdCnt := if 2 ≤ r then BitVec.ofNat 32 (onCycles s + 1 - r) else 0#32
    segAct := if 1 ≤ r then lineBit j else 0#8
    digAct := if 2 ≤ r ∧ r ≤ onCycles s + 1 then phaseDigits s j else 0#8
    inputs := l }

/-- What a sweep needs to run: the parts of the invariant its micro-operations rest on (R6, R132, R134). -/
abbrev sweeps (s : State) : Prop :=
  s.params.valid = true ∧ s.ubFault = false ∧ s.seqMode = .sweep ∧ 1 ≤ s.sweepT.toNat ∧
    s.sweepT.toNat ≤ s.params.onTimeMax

theorem sweeps_of_inv {s : State} (h : s.Inv) (hbusy : s.seq ≠ .idle) (hm : s.seqMode = .sweep) : sweeps s := by
  obtain ⟨hv, hu, -, -, -, ⟨-, hsweepT, -⟩, -⟩ := h
  exact ⟨hv, hu, hm, hsweepT hbusy hm⟩

theorem phaseOp_ne_idle (K r : Nat) : phaseOp K r ≠ .idle := by
  unfold phaseOp
  split_ifs <;> simp

theorem phaseOp_hold {K r : Nat} (h2 : 2 ≤ r) (hK : r ≤ K) : phaseOp K r = .hold := by
  rw [phaseOp, if_neg (by omega), if_neg (by omega), if_pos hK]

theorem phaseOp_digOff {K r : Nat} (h2 : 2 ≤ r) (hK : r = K + 1) : phaseOp K r = .digOff := by
  rw [phaseOp, if_neg (by omega), if_neg (by omega), if_neg (by omega), if_pos hK]

theorem phaseOp_segOff {K r : Nat} (hK : K + 2 ≤ r) : phaseOp K r = .segOff := by
  rw [phaseOp, if_neg (by omega), if_neg (by omega), if_neg (by omega), if_neg (by omega)]

section
variable {s : State} {j r : Nat} {l : List EdgeInput}

theorem onCycles_bounds (h : sweeps s) : 1 ≤ onCycles s ∧ onCycles s ≤ 2 ^ 32 := by
  obtain ⟨hv, -, -, hlow, hhigh⟩ := h
  obtain ⟨-, -, -, -, -, hcyc, hfit, -⟩ := (Params.valid_iff s.params).mp hv
  exact ⟨Nat.mul_pos hlow hcyc, (Nat.mul_le_mul_right _ hhigh).trans hfit⟩

/-! ### The state at a position, register by register -/

theorem sweepAt_holdCnt (h2 : 2 ≤ r) : (sweepAt s j r l).holdCnt = BitVec.ofNat 32 (onCycles s + 1 - r) := if_pos h2

theorem sweepAt_segAct (h1 : 1 ≤ r) : (sweepAt s j r l).segAct = lineBit j := if_pos h1

theorem sweepAt_digAct_on (h2 : 2 ≤ r) (hr : r ≤ onCycles s + 1) : (sweepAt s j r l).digAct = phaseDigits s j :=
  if_pos ⟨h2, hr⟩

theorem sweepAt_digAct_off (hr : onCycles s + 2 ≤ r) : (sweepAt s j r l).digAct = 0#8 := if_neg (by omega)

theorem phase_sweepAt (hm : s.seqMode = .sweep) (hj : j < 8) : phase (sweepAt s j r l) = j := by
  rw [phase_sweep (s := sweepAt s j r l) hm]
  exact Nat.mod_eq_of_lt hj

theorem litDigits_sweepAt : litDigits (sweepAt s j r l) = phaseDigits s j := by
  refine litDigits_congr rfl rfl rfl ?_
  rw [phase_eq, phase_eq]
  rfl

theorem sweepAt_holdCnt_segOff : (sweepAt s j (onCycles s + 2) l).holdCnt = 0#32 := by
  rw [sweepAt_holdCnt (by omega), Nat.sub_eq_zero_of_le (by omega)]

/-- Clearing the phase's segment line, as SEG_OFF does, leaves none on (R138). -/
theorem sweepAt_segAct_cleared (hm : s.seqMode = .sweep) (hj : j < 8) (h1 : 1 ≤ r) :
    (sweepAt s j r l).segAct &&& ~~~lineBit (phase (sweepAt s j r l)) = 0#8 := by
  rw [phase_sweepAt hm hj, sweepAt_segAct h1, lineBit_and_not_self]

/-- A state is the one of the schedule when its sequencer and line registers are, and all else is as in `s`. -/
theorem eq_sweepAt {t : State}
    (hframe : t = { s with seq := t.seq, curSeg := t.curSeg, holdCnt := t.holdCnt, segAct := t.segAct,
                           digAct := t.digAct, inputs := t.inputs })
    (hseq : t.seq = phaseOp (onCycles s) r) (hcur : t.curSeg = BitVec.ofNat 3 j)
    (hhold : t.holdCnt = (sweepAt s j r l).holdCnt) (hseg : t.segAct = (sweepAt s j r l).segAct)
    (hdig : t.digAct = (sweepAt s j r l).digAct) (hinputs : t.inputs = l) : t = sweepAt s j r l := by
  rw [hframe, hseq, hcur, hhold, hseg, hdig, hinputs]
  rfl

/-! ### From one position to the next -/

section
variable (h : sweeps s) (hl : ∀ e ∈ l, e.rst = false)
include h hl

theorem step_sweepAt_segOn (hj : j < 8) : step (sweepAt s j 0 l) = .next (sweepAt s j 1 l.tail) := by
  obtain ⟨hv, hu, hm, -⟩ := h
  rw [step_of_segOn (s := sweepAt s j 0 l) hv hu (noReset_now hl) rfl]
  refine congrArg _ (eq_sweepAt rfl rfl rfl rfl ?_ rfl rfl)
  rw [segOnOp_segAct, phase_afterInputs, phase_sweepAt hm hj]
  exact zero_or_lineBit j

theorem step_sweepAt_digOn : step (sweepAt s j 1 l) = .next (sweepAt s j 2 l.tail) := by
  obtain ⟨hmin, hmax⟩ := onCycles_bounds h
  obtain ⟨hv, hu, hm, hlow, hhigh⟩ := h
  have hload : (BitVec.ofInt 32 (holdLoad (sweepAt s j 1 l))).toNat = onCycles s - 1 := holdLoad_toNat hv hlow hhigh
  have hzero : holdLoad (sweepAt s j 1 l) = 0 ↔ onCycles s = 1 := holdLoad_eq_zero_iff _
  rw [step_of_digOn (s := sweepAt s j 1 l) hv hu (noReset_now hl) rfl,
    digOnOp_of_sweep (s := afterInputs (sweepAt s j 1 l)) hm]
  refine congrArg _ (eq_sweepAt rfl ?seq rfl ?hold rfl ?dig rfl)
  case seq =>
    change (if holdLoad (sweepAt s j 1 l) = 0 then Seq.digOff else .hold) = _
    split
    · rw [phaseOp_digOff le_rfl (by omega)]
    · rw [phaseOp_hold le_rfl (by omega)]
  case hold =>
    apply BitVec.eq_of_toNat_eq
    rw [sweepAt_holdCnt le_rfl, BitVec.toNat_ofNat, Nat.mod_eq_of_lt (by omega)]
    exact hload
  case dig =>
    rw [sweepAt_digAct_on le_rfl (by omega)]
    exact litDigits_sweepAt (s := s) (r := 1) (l := l)

theorem step_sweepAt_hold (h2 : 2 ≤ r) (hr : r ≤ onCycles s) :
    step (sweepAt s j r l) = .next (sweepAt s j (r + 1) l.tail) := by
  obtain ⟨-, hmax⟩ := onCycles_bounds h
  obtain ⟨hv, hu, -⟩ := h
  have hpred : (sweepAt s j r l).holdCnt - 1#32 = BitVec.ofNat 32 (onCycles s - r) := by
    rw [sweepAt_holdCnt h2, Nat.sub_add_comm hr, BitVec.ofNat_add, BitVec.add_sub_cancel]
  have hend : BitVec.ofNat 32 (onCycles s - r) = 0#32 ↔ r = onCycles s := by
    rw [← BitVec.toNat_inj, BitVec.toNat_ofNat, Nat.mod_eq_of_lt (by omega), BitVec.toNat_zero]
    omega
  rw [step_of_hold (s := sweepAt s j r l) hv hu (noReset_now hl) (phaseOp_hold h2 hr)]
  refine congrArg _ (eq_sweepAt rfl ?seq rfl ?hold ?seg ?dig rfl)
  case seq =>
    rw [holdOp_seq, afterInputs_holdCnt, hpred, if_congr hend rfl rfl]
    split
    · rw [phaseOp_digOff (by omega) (by omega)]
    · rw [phaseOp_hold (by omega) (by omega)]
  case hold =>
    rw [holdOp_holdCnt, afterInputs_holdCnt, hpred, sweepAt_holdCnt (by omega), Nat.add_sub_add_right]
  case seg => rw [holdOp_segAct, afterInputs_segAct, sweepAt_segAct (by omega), sweepAt_segAct (by omega)]
  case dig =>
    rw [holdOp_digAct, afterInputs_digAct, sweepAt_digAct_on h2 (by omega), sweepAt_digAct_on (by omega) (by omega)]

theorem step_sweepAt_digOff : step (sweepAt s j (onCycles s + 1) l) = .next (sweepAt s j (onCycles s + 2) l.tail) := by
  obtain ⟨hmin, -⟩ := onCycles_bounds h
  obtain ⟨hv, hu, -⟩ := h
  rw [step_of_digOff (s := sweepAt s j (onCycles s + 1) l) hv hu (noReset_now hl) (phaseOp_digOff (by omega) rfl)]
  refine congrArg _ (eq_sweepAt rfl ?seq rfl ?hold ?seg ?dig rfl)
  case seq => rw [digOffOp_seq, phaseOp_segOff le_rfl]
  case hold =>
    rw [digOffOp_holdCnt, afterInputs_holdCnt, sweepAt_holdCnt (by omega), sweepAt_holdCnt (by omega), Nat.sub_self,
      Nat.sub_eq_zero_of_le (by omega)]
  case seg => rw [digOffOp_segAct, afterInputs_segAct, sweepAt_segAct (by omega), sweepAt_segAct (by omega)]
  case dig => rw [digOffOp_digAct, sweepAt_digAct_off le_rfl]

/-- A position but the last is followed by the next one of its phase. -/
theorem step_sweepAt (hj : j < 8) (hr : r ≤ onCycles s + 1) :
    step (sweepAt s j r l) = .next (sweepAt s j (r + 1) l.tail) := by
  match r with
  | 0 => exact step_sweepAt_segOn h hl hj
  | 1 => exact step_sweepAt_digOn h hl
  | r + 2 =>
    by_cases hend : r + 2 = onCycles s + 1
    · rw [hend]
      exact step_sweepAt_digOff h hl
    · exact step_sweepAt_hold h hl (by omega) (by omega)

/-- SEG_OFF of a phase but the last is followed by SEG_ON of the next phase (R138). -/
theorem step_sweepAt_segOff (hj : j < 7) :
    step (sweepAt s j (onCycles s + 2) l) = .next (sweepAt s (j + 1) 0 l.tail) := by
  obtain ⟨hmin, -⟩ := onCycles_bounds h
  obtain ⟨hv, hu, hm, -⟩ := h
  have hcur : BitVec.ofNat 3 j ≠ 7#3 := by
    rw [ne_eq, ← BitVec.toNat_inj, BitVec.toNat_ofNat, Nat.mod_eq_of_lt (by omega)]
    exact Nat.ne_of_lt hj
  rw [step_of_segOff (s := sweepAt s j (onCycles s + 2) l) hv hu (noReset_now hl) (phaseOp_segOff le_rfl),
    segOffOp_of_sweep (s := afterInputs (sweepAt s j (onCycles s + 2) l)) hm hcur, afterInputs_segAct,
    phase_afterInputs, sweepAt_segAct_cleared hm (by omega) (by omega), afterInputs_holdCnt, sweepAt_holdCnt_segOff,
    afterInputs_digAct, sweepAt_digAct_off le_rfl]
  exact congrArg _ (eq_sweepAt rfl rfl (BitVec.ofNat_add j 1).symm rfl rfl rfl rfl)

/-- SEG_OFF of the last phase ends the sweep, dark and idle (R138, R148). -/
theorem step_sweepAt_last : step (sweepAt s 7 (onCycles s + 2) l) =
    .next { s with seq := .idle, curSeg := 0#3, holdCnt := 0#32, segAct := 0#8, digAct := 0#8, inputs := l.tail } := by
  obtain ⟨hv, hu, hm, -⟩ := h
  rw [step_of_segOff (s := sweepAt s 7 (onCycles s + 2) l) hv hu (noReset_now hl) (phaseOp_segOff le_rfl),
    segOffOp_of_last_phase (s := afterInputs (sweepAt s 7 (onCycles s + 2) l)) hm rfl, afterInputs_segAct,
    phase_afterInputs, sweepAt_segAct_cleared hm (by decide) (by omega), afterInputs_holdCnt, sweepAt_holdCnt_segOff,
    afterInputs_digAct, sweepAt_digAct_off le_rfl]
  rfl

/-! ### Runs through the schedule -/

/-- A run that stays in one phase. -/
theorem run_sweepAt (hj : j < 8) {k : Nat} (hk : r + k ≤ onCycles s + 2) :
    Sys2Proof.core.run k (sweepAt s j r l) = .next (sweepAt s j (r + k) (l.drop k)) := by
  induction k generalizing r l with
  | zero => rfl
  | succ k ih =>
    rw [← List.drop_tail, ← Nat.add_assoc, Nat.add_right_comm]
    exact run_succ (step_sweepAt h hl hj (by omega)) (ih (fun e he => hl e (List.mem_of_mem_tail he)) (by omega))

/-- A run to position `r` of phase `j`, from the first position of the sweep (R140). -/
theorem run_sweep (hj : j < 8) (hr : r ≤ onCycles s + 2) :
    Sys2Proof.core.run (j * (onCycles s + 3) + r) (sweepAt s 0 0 l) =
      .next (sweepAt s j r (l.drop (j * (onCycles s + 3) + r))) := by
  have hdrop (n : Nat) : ∀ e ∈ l.drop n, e.rst = false := fun e he => hl e (List.mem_of_mem_drop he)
  induction j generalizing r with
  | zero => simpa using run_sweepAt h hl (j := 0) (r := 0) (by decide) (by omega)
  | succ j ih =>
    have hlast := ih (by omega) (r := onCycles s + 2) le_rfl
    have hsplit : (j + 1) * (onCycles s + 3) + r = j * (onCycles s + 3) + (onCycles s + 2) + (r + 1) := by ring
    rw [hsplit]
    generalize j * (onCycles s + 3) + (onCycles s + 2) = n at hlast ⊢
    have hstep := step_sweepAt_segOff h (hdrop n) (j := j) (by omega)
    have hrest := run_sweepAt h (hdrop (n + 1)) (j := j + 1) (r := 0) (k := r) hj (by omega)
    rw [List.tail_drop] at hstep
    rw [List.drop_drop, Nat.zero_add, Nat.add_assoc n 1 r, Nat.add_comm 1 r] at hrest
    exact run_add hlast (run_succ hstep hrest)

/-- The whole sweep (R140). -/
theorem run_whole_sweep : Sys2Proof.core.run (8 * (onCycles s + 3)) (sweepAt s 0 0 l) =
    .next { s with seq := .idle, curSeg := 0#3, holdCnt := 0#32, segAct := 0#8, digAct := 0#8,
                   inputs := l.drop (8 * (onCycles s + 3)) } := by
  have hlast := run_sweep h hl (j := 7) (r := onCycles s + 2) (by decide) le_rfl
  have hstep := step_sweepAt_last h (l := l.drop (7 * (onCycles s + 3) + (onCycles s + 2)))
    fun e he => hl e (List.mem_of_mem_drop he)
  have hsplit : 8 * (onCycles s + 3) = 7 * (onCycles s + 3) + (onCycles s + 2) + 1 := by ring
  rw [List.tail_drop, ← hsplit] at hstep
  rw [hsplit]
  rw [hsplit] at hstep
  exact run_add hlast (run_succ hstep (run_zero _))
end
end

/-! ### The hold of one phase (R136) -/

/-- With DIG_ON pending in a sweep the invariant fixes the sequencer and line registers. -/
theorem eq_sweepAt_of_digOn {s : State} (h : s.Inv) (hq : s.seq = .digOn) (hm : s.seqMode = .sweep) :
    s = sweepAt s s.curSeg.toNat 1 s.inputs := by
  obtain ⟨-, hhold, hseg, hdig⟩ := (inv_at_digOn hq).mp (sequencing_of_inv h)
  rw [phase_sweep hm] at hseg
  exact eq_sweepAt rfl hq (by simp) hhold hseg hdig rfl

/-- The digits stay on for `K` edges, the last of them with DIG_OFF pending, and go off at the next. -/
theorem run_hold {s : State} (hinv : s.Inv) (hl : noReset s) (hq : s.seq = .digOn) (hm : s.seqMode = .sweep) :
    (∀ k, 1 ≤ k → k ≤ onCycles s →
      ∃ u, Sys2Proof.core.run k s = .next u ∧ u.digAct = litDigits s ∧
        u.seq = (if k = onCycles s then .digOff else .hold)) ∧
    ∃ u, Sys2Proof.core.run (onCycles s + 1) s = .next u ∧ u.digAct = 0#8 ∧ u.seq = .segOff := by
  have hs : sweeps s := sweeps_of_inv hinv (by simp [hq]) hm
  have hrun {k : Nat} (hk : k ≤ onCycles s + 1) := run_sweepAt hs hl (r := 1) (k := k) s.curSeg.isLt (by omega)
  rw [← eq_sweepAt_of_digOn hinv hq hm] at hrun
  have hdigits : phaseDigits s s.curSeg.toNat = litDigits s := by simp [phaseDigits]
  refine ⟨fun k h1 hk => ⟨_, hrun (by omega), ?_, ?_⟩, _, hrun le_rfl, ?_, ?_⟩
  · rw [sweepAt_digAct_on (by omega) (by omega), hdigits]
  · change phaseOp (onCycles s) (1 + k) = if k = onCycles s then .digOff else .hold
    split
    · exact phaseOp_digOff (by omega) (by omega)
    · exact phaseOp_hold (by omega) (by omega)
  · rw [sweepAt_digAct_off (by omega)]
  · exact phaseOp_segOff (K := onCycles s) (r := 1 + (onCycles s + 1)) (by omega)

/-- Settles O54: DIG_ON stands at position 1 of its phase, and the digits are those of positions 2 to `K + 1`. -/
theorem holdLastsExactlyTheOnTime : Obligations.HoldLastsExactlyTheOnTime :=
  fun _ hinv hl hq hm => run_hold hinv hl hq hm

/-! ### The sweep of REFRESH and REFRESH.T (R140, R141) -/

/-- A sweep just started, with the invariant, stands at the first position of the schedule. -/
theorem eq_sweepAt_of_segOn {s : State} (h : s.Inv) (hq : s.seq = .segOn) (hcur : s.curSeg = 0#3) :
    s = sweepAt s 0 0 s.inputs := by
  obtain ⟨-, hhold, hseg, hdig⟩ := (inv_at_segOn hq).mp (sequencing_of_inv h)
  exact eq_sweepAt rfl hq hcur hhold hseg hdig rfl

/-- The on-time of a REFRESH.T, as R141 clamps it. -/
theorem sweepOnTime_eq {p : Params} (hv : p.valid = true) (ot : BitVec 16) :
    (sweepOnTime p ot).toNat = max 1 (min ot.toNat p.onTimeMax) := by
  obtain ⟨-, -, hmax, -⟩ := (Params.valid_iff p).mp hv
  have hval := sweepOnTime_toNat hv ot
  unfold clamp at hval
  split_ifs at hval <;> omega

/-- Either refresh command, accepted by a configured block in SWEEP mode, starts a sweep with its on-time. -/
theorem step_of_refresh {s : State} {T : Nat} (hinv : s.Inv) (hc : s.cfgDone = true) (hs : s.strategy = .sweep)
    (hq : s.seq = .idle) (hr : (edgeNow s).rst = false) (hcmd : (edgeNow s).cmdValid = true)
    (hT : (decode (edgeNow s).cmdData = .refresh ∧ T = s.onTime.toNat) ∨
      ∃ ot, decode (edgeNow s).cmdData = .refreshT ot ∧ T = max 1 (min ot.toNat s.params.onTimeMax)) :
    ∃ t, step s = .next (startSweep t (afterInputs s)) ∧ t.toNat = T := by
  obtain ⟨hv, hu, -⟩ := hinv
  rw [step_of_command hv hr hu hq hcmd]
  obtain ⟨hd, rfl⟩ | ⟨ot, hd, rfl⟩ := hT
  · rw [hd, exec_refresh_effective (s := afterInputs s) hc hs]
    exact ⟨_, rfl, rfl⟩
  · rw [hd, exec_refreshT_effective (s := afterInputs s) ot hc hs]
    exact ⟨_, rfl, sweepOnTime_eq hv ot⟩

/-- The segment lines at a position: line `j` alone, from the edge after SEG_ON on. -/
theorem sweepAt_segAct_getLsbD {s : State} {j r : Nat} {l : List EdgeInput} {i : Nat} (hi : i < 8) :
    (sweepAt s j r l).segAct.getLsbD i = (decide (i = j) && decide (1 ≤ r)) := by
  by_cases h1 : 1 ≤ r
  · rw [sweepAt_segAct h1, lineBit_getLsbD]
    simp [hi, h1, eq_comm]
  · have hoff : (sweepAt s j r l).segAct = 0#8 := if_neg h1
    simp [hoff, h1]

/-- The digit lines at a position: those of phase `j`, from the edge after DIG_ON until DIG_OFF. -/
theorem sweepAt_digAct_getLsbD {s : State} {j r : Nat} {l : List EdgeInput} {i : Nat}
    (hn : s.digitCount.toNat ≤ s.params.maxDigits) (hm : s.seqMode = .sweep) (hj : j < 8) (hi : i < 8) :
    (sweepAt s j r l).digAct.getLsbD i =
      (decide (i < s.digitCount.toNat) && (Memory.read s.mask i).getLsbD j && decide (2 ≤ r) &&
        decide (r ≤ onCycles s + 1)) := by
  by_cases hon : 2 ≤ r ∧ r ≤ onCycles s + 1
  · obtain ⟨h2, hr⟩ := hon
    have hphase : phase (sweepAt s j r l) = j := phase_sweepAt hm hj
    rw [sweepAt_digAct_on h2 hr, ← litDigits_sweepAt (r := r) (l := l),
      litDigits_getLsbD_of_le (s := sweepAt s j r l) hn hi, hphase]
    simp [h2, hr, sweepAt]
  · have hoff : (sweepAt s j r l).digAct = 0#8 := if_neg hon
    rw [hoff, Bool.and_assoc, ← Bool.decide_and, decide_eq_false hon]
    simp

/-- Settles O55: the accepted command starts the sweep at position 0 of phase 0, and the runs through the schedule give
every position and the end. -/
theorem sweepRunsItsEightPhases : Obligations.SweepRunsItsEightPhases := by
  refine ⟨fun s h => ?_, fun s T K hinv hc hs hq hl hcmd hT hK => ?_⟩
  · have hineff : ¬(s.cfgDone = true ∧ s.strategy = .sweep) := by
      rintro ⟨hc, hs⟩
      simp [hc, hs] at h
    exact ⟨exec_refresh_ineffective hineff, fun ot => exec_refreshT_ineffective ot hineff⟩
  obtain ⟨t, hstep, rfl⟩ := step_of_refresh hinv hc hs hq (noReset_now hl) hcmd hT
  obtain rfl : K = onCycles (startSweep t (afterInputs s)) := hK
  have hstart : (startSweep t (afterInputs s)).Inv := step_keeps_inv hinv hstep
  have hsweeps : sweeps (startSweep t (afterInputs s)) := sweeps_of_inv hstart (by simp) rfl
  have hu : (startSweep t (afterInputs s)).ubFault = false := hstart.2.1
  rw [eq_sweepAt_of_segOn hstart rfl rfl] at hstep
  have hl' : ∀ e ∈ s.inputs.tail, e.rst = false := noReset_afterInputs hl
  refine ⟨fun j hj r hr => ?_, ?_⟩
  · exact ⟨_, run_succ hstep (run_sweep hsweeps hl' hj (by omega)), busy_of_running hu (phaseOp_ne_idle _ r),
      cmdReady_of_running hu (phaseOp_ne_idle _ r), rfl, fun i hi => sweepAt_segAct_getLsbD hi,
      fun i hi => sweepAt_digAct_getLsbD (digitCount_le_maxDigits hstart) rfl hj hi⟩
  · obtain ⟨hhold, hcur, -, ⟨hdark, -⟩, -⟩ := (inv_at_idle hq).mp (sequencing_of_inv hinv)
    obtain ⟨hseg, hdig⟩ := hdark hs
    refine ⟨_, run_succ hstep (run_whole_sweep hsweeps hl'), rfl, ?_, rfl, rfl, busy_of_idle hu rfl,
      cmdReady_of_idle hu rfl⟩
    rw [hq, hcur, hhold, hseg, hdig]
    rfl

end Sys2Proof.Machine
end

section
/-! PROOFS. One step of ADVANCE_STEP, edge by edge (R142). -/

namespace Sys2Proof.Machine

/-! ### Running a list of micro-operations -/

/-- From `u` the micro-operations of the list are pending in turn, one an edge, and leave `t` (R131). -/
def runsOps : List Seq → State → State → Prop
  | [], u, t => u = t
  | q :: qs, u, t => u.seq = q ∧ q ≠ .idle ∧ u.ubFault = false ∧ ∃ v, step u = .next v ∧ runsOps qs v t

theorem runsOps_cons {q : Seq} {qs : List Seq} {u v t : State} (hq : u.seq = q) (hidle : q ≠ .idle)
    (hu : u.ubFault = false) (hstep : step u = .next v) (hrest : runsOps qs v t) : runsOps (q :: qs) u t :=
  ⟨hq, hidle, hu, v, hstep, hrest⟩

theorem runsOps_append {xs ys : List Seq} {u v t : State} (hx : runsOps xs u v) (hy : runsOps ys v t) :
    runsOps (xs ++ ys) u t := by
  induction xs generalizing u with
  | nil =>
    cases hx
    exact hy
  | cons q xs ih =>
    obtain ⟨hq, hidle, hu, w, hstep, hrest⟩ := hx
    exact ⟨hq, hidle, hu, w, hstep, ih hrest⟩

/-- The run that the list describes. -/
theorem run_of_runsOps {ops : List Seq} {u t : State} (h : runsOps ops u t) :
    Sys2Proof.core.run ops.length u = .next t := by
  induction ops generalizing u with
  | nil => exact congrArg _ h
  | cons q ops ih =>
    obtain ⟨-, -, -, v, hstep, hrest⟩ := h
    exact run_succ hstep (ih hrest)

/-- After `k` edges the `k`-th micro-operation of the list is pending. -/
theorem pending_of_runsOps {ops : List Seq} {u t : State} (h : runsOps ops u t) {k : Nat} {q : Seq}
    (hk : ops[k]? = some q) :
    ∃ v, Sys2Proof.core.run k u = .next v ∧ v.seq = q ∧ q ≠ .idle ∧ v.ubFault = false := by
  induction ops generalizing u k with
  | nil => simp at hk
  | cons p ops ih =>
    obtain ⟨hp, hidle, hu, w, hstep, hrest⟩ := h
    cases k with
    | zero =>
      obtain rfl : p = q := by simpa using hk
      exact ⟨u, rfl, hp, hidle, hu⟩
    | succ k =>
      obtain ⟨v, hrun, hv⟩ := ih hrest (by simpa using hk)
      exact ⟨v, run_succ hstep hrun, hv⟩

/-! ### The micro-operations of a step -/

/-- The block `s` in a step: micro-operation `q` pending, phase `p`, lines `a` and `d`, the host inputs `l` to come. -/
def stepWith (s : State) (q : Seq) (p : BitVec 9) (a d : Byte) (l : List EdgeInput) : State :=
  { s with seqMode := .step, seq := q, pos := p, segAct := a, digAct := d, inputs := l }

/-- The digits shown at phase `p` of the stepping (R134). -/
def stepDigits (s : State) (p : BitVec 9) : Byte := litDigits { s with seqMode := .step, pos := p }

section
variable {s : State} {p : BitVec 9} {a d : Byte} {l : List EdgeInput} (hv : s.params.valid = true)
  (hu : s.ubFault = false) (hl : ∀ e ∈ l, e.rst = false)
include hv hu hl

theorem step_stepWith_digOff : step (stepWith s .digOff p a d l) = .next (stepWith s .segOff p a 0#8 l.tail) :=
  step_of_digOff (s := stepWith s .digOff p a d l) hv hu (noReset_now hl) rfl

theorem step_stepWith_segOff :
    step (stepWith s .segOff p a d l) = .next (stepWith s .adv p (a &&& ~~~lineBit p.toNat) d l.tail) :=
  step_of_segOff (s := stepWith s .segOff p a d l) hv hu (noReset_now hl) rfl

theorem step_stepWith_adv :
    step (stepWith s .adv p a d l) =
      .next (stepWith s (if (p.toNat + 1) % (8 + s.skip.toNat) < 8 then .segOn else .idle)
        (BitVec.ofNat 9 ((p.toNat + 1) % (8 + s.skip.toNat))) a d l.tail) :=
  step_of_adv (s := stepWith s .adv p a d l) hv hu (noReset_now hl) rfl

theorem step_stepWith_segOn :
    step (stepWith s .segOn p a d l) = .next (stepWith s .digOn p (a ||| lineBit p.toNat) d l.tail) :=
  step_of_segOn (s := stepWith s .segOn p a d l) hv hu (noReset_now hl) rfl

theorem step_stepWith_digOn :
    step (stepWith s .digOn p a d l) = .next (stepWith s .idle p a (stepDigits s p) l.tail) :=
  step_of_digOn (s := stepWith s .digOn p a d l) hv hu (noReset_now hl) rfl
end

/-! ### The whole step -/

/-- The micro-operations that leave phase `p` (R142). -/
def leaveOps (p : Nat) : List Seq := if p < 8 then [.digOff, .segOff] else []

/-- The micro-operations that show phase `n` (R142). -/
def showOps (n : Nat) : List Seq := if n < 8 then [.segOn, .digOn] else []

/-- The micro-operations of the step the block is about to make (R142). -/
def stepOps (s : State) : List Seq := leaveOps s.pos.toNat ++ [.adv] ++ showOps (nextPos s)

theorem stepOps_length (s : State) :
    (stepOps s).length = (leaveOps s.pos.toNat).length + 1 + (showOps (nextPos s)).length := by
  rw [stepOps, List.length_append, List.length_append, List.length_singleton]

/-- The idle block that shows phase `n`, or nothing in a dark one (R142, R149). -/
def steppedTo (s : State) (n : Nat) (l : List EdgeInput) : State :=
  stepWith s .idle (BitVec.ofNat 9 n) (if n < 8 then lineBit n else 0#8)
    (if n < 8 then stepDigits s (BitVec.ofNat 9 n) else 0#8) l

section
variable {s : State} {l : List EdgeInput} (h : s.Inv) (hl : ∀ e ∈ l, e.rst = false)
include h hl

/-- Leaving a phase turns every line off: a segment phase by DIG_OFF and SEG_OFF, a dark one is off already (R149). -/
theorem runsOps_leave (hs : s.strategy = .step) (hq : s.seq = .idle) :
    runsOps (leaveOps s.pos.toNat)
      (stepWith s (if s.pos.toNat < 8 then .digOff else .adv) s.pos s.segAct s.digAct l)
      (stepWith s .adv s.pos 0#8 0#8 (l.drop (leaveOps s.pos.toNat).length)) := by
  obtain ⟨-, -, -, ⟨-, hlines⟩, -⟩ := (inv_at_idle hq).mp (sequencing_of_inv h)
  have hlit := hlines hs
  obtain ⟨hv, hu, -⟩ := h
  by_cases hp : s.pos.toNat < 8
  · have hoff : s.segAct &&& ~~~lineBit s.pos.toNat = 0#8 := by
      obtain ⟨hseg, -⟩ | ⟨-, hseg⟩ := hlit <;> simp [hseg]
    have hlast := step_stepWith_segOff (p := s.pos) (a := s.segAct) (d := 0#8) hv hu
      (fun e he => hl e (List.mem_of_mem_tail he))
    have htail : l.tail.tail = l.drop 2 := by simp [← List.drop_one]
    rw [hoff, htail] at hlast
    simp only [leaveOps, if_pos hp]
    exact runsOps_cons rfl (by simp) hu (step_stepWith_digOff hv hu hl) (runsOps_cons rfl (by simp) hu hlast rfl)
  · obtain ⟨hseg, hdig, -⟩ | ⟨hlt, -⟩ := hlit
    · simp only [leaveOps, if_neg hp, hseg, hdig]
      rfl
    · exact absurd hlt hp

omit h in
/-- SEG_ON and DIG_ON show a segment phase; a dark one is shown already (R142). -/
theorem runsOps_show (hv : s.params.valid = true) (hu : s.ubFault = false) {n : Nat} (hn : (BitVec.ofNat 9 n).toNat = n) :
    runsOps (showOps n) (stepWith s (if n < 8 then .segOn else .idle) (BitVec.ofNat 9 n) 0#8 0#8 l)
      (steppedTo s n (l.drop (showOps n).length)) := by
  by_cases h8 : n < 8
  · have hfirst := step_stepWith_segOn (p := BitVec.ofNat 9 n) (a := 0#8) (d := 0#8) hv hu hl
    have hlast := step_stepWith_digOn (p := BitVec.ofNat 9 n) (a := lineBit n) (d := 0#8) hv hu
      (fun e he => hl e (List.mem_of_mem_tail he))
    have htail : l.tail.tail = l.drop 2 := by simp [← List.drop_one]
    rw [hn, zero_or_lineBit] at hfirst
    rw [htail] at hlast
    simp only [showOps, steppedTo, if_pos h8]
    exact runsOps_cons rfl (by simp) hu hfirst (runsOps_cons rfl (by simp) hu hlast rfl)
  · simp only [showOps, steppedTo, if_neg h8]
    rfl

/-- The whole step, from the state ADVANCE_STEP leaves (R142). -/
theorem runsOps_step (hs : s.strategy = .step) (hq : s.seq = .idle) :
    runsOps (stepOps s) (stepWith s (if s.pos.toNat < 8 then .digOff else .adv) s.pos s.segAct s.digAct l)
      (steppedTo s (nextPos s) (l.drop (stepOps s).length)) := by
  have ⟨hv, hu, _⟩ := h
  have hdrop (k : Nat) : ∀ e ∈ l.drop k, e.rst = false := fun e he => hl e (List.mem_of_mem_drop he)
  have hadv := step_stepWith_adv (p := s.pos) (a := 0#8) (d := 0#8) hv hu (hdrop (leaveOps s.pos.toNat).length)
  have hshow := runsOps_show (hdrop ((leaveOps s.pos.toNat).length + 1)) hv hu (nextPos_toNat s)
  rw [List.tail_drop] at hadv
  rw [List.drop_drop, ← stepOps_length] at hshow
  have hrest := runsOps_cons (q := .adv) (u := stepWith s .adv _ _ _ _) rfl (by simp) hu hadv hshow
  have hall := runsOps_append (runsOps_leave h hl hs hq) hrest
  rwa [List.append_cons] at hall
end

/-- The digits of a phase, one by one (R134). -/
theorem stepDigits_getLsbD {s : State} {i : Nat} (hn : s.digitCount.toNat ≤ s.params.maxDigits) (hi : i < 8)
    (p : BitVec 9) :
    (stepDigits s p).getLsbD i = (decide (i < s.digitCount.toNat) && (Memory.read s.mask i).getLsbD p.toNat) :=
  litDigits_getLsbD_of_le (s := { s with seqMode := .step, pos := p }) hn hi

/-- What is shown after the step: the segment line and the digits of its phase, or nothing in a dark one (R149). -/
theorem steppedTo_lines (s : State) {n : Nat} (h : s.Inv) (hn : (BitVec.ofNat 9 n).toNat = n) (l : List EdgeInput) :
    (n < 8 → (∀ j < 8, (steppedTo s n l).segAct.getLsbD j = decide (j = n)) ∧
      ∀ i < 8, (steppedTo s n l).digAct.getLsbD i =
        (decide (i < s.digitCount.toNat) && (Memory.read s.mask i).getLsbD n)) ∧
    (8 ≤ n → (steppedTo s n l).segAct = 0#8 ∧ (steppedTo s n l).digAct = 0#8) := by
  refine ⟨fun h8 => ⟨fun j hj => ?_, fun i hi => ?_⟩, fun h8 => ⟨if_neg (by omega), if_neg (by omega)⟩⟩
  · have hseg : (steppedTo s n l).segAct = lineBit n := if_pos h8
    rw [hseg, lineBit_getLsbD]
    simp [hj, eq_comm]
  · have hdig : (steppedTo s n l).digAct = stepDigits s (BitVec.ofNat 9 n) := if_pos h8
    rw [hdig, stepDigits_getLsbD (digitCount_le_maxDigits h) hi, hn]

/-- Settles O56: the accepted command starts the step, and the list of its micro-operations runs to the next phase. -/
theorem advanceStepShowsTheNextPhase : Obligations.AdvanceStepShowsTheNextPhase := by
  refine ⟨fun s h => exec_advanceStep_ineffective ?_, fun s n ops hinv hc hs hq hl hcmd hd hn hops => ?_⟩
  · rintro ⟨hc, hs⟩
    simp [hc, hs] at h
  have ⟨hv, hu, _⟩ := hinv
  obtain rfl : n = nextPos s := hn
  obtain rfl : ops = stepOps s := hops
  have hstep : step s =
      .next (stepWith s (if s.pos.toNat < 8 then .digOff else .adv) s.pos s.segAct s.digAct s.inputs.tail) := by
    rw [step_of_command hv (noReset_now hl) hu hq hcmd, hd]
    exact exec_advanceStep_effective (s := afterInputs s) hc hs
  have hruns := runsOps_step hinv (noReset_afterInputs hl) hs hq
  obtain ⟨hlit, hdark⟩ := steppedTo_lines s hinv (nextPos_toNat s) (s.inputs.tail.drop (stepOps s).length)
  refine ⟨fun k q hk => ?_, _, run_succ hstep (run_of_runsOps hruns), rfl, nextPos_toNat s, busy_of_idle hu rfl,
    cmdReady_of_idle hu rfl, hlit, hdark, ?_⟩
  · obtain ⟨u, hrun, hseq, hidle, hfault⟩ := pending_of_runsOps hruns hk
    have hbusy : u.seq ≠ .idle := by rwa [hseq]
    exact ⟨u, run_succ hstep hrun, hseq, busy_of_running hfault hbusy, cmdReady_of_running hfault hbusy⟩
  · rw [hq]
    rfl

end Sys2Proof.Machine
end

section
/-! PROOFS. SET_BRIGHTNESS and the properties of the brightness maps (R160 to R163). -/

namespace Sys2Proof.Machine

theorem clamp_eq_max_min {lo hi : Int} (h : lo ≤ hi) (v : Int) : clamp v lo hi = max lo (min v hi) := by
  unfold clamp; split_ifs <;> omega

/-! ### SET_BRIGHTNESS -/

/-- Settles O43: the register of the strategy holds the map's value because that value fits it. -/
theorem setBrightnessWritesTheMappedValue : Obligations.SetBrightnessWritesTheMappedValue := by
  intro s val hv
  obtain hc | hc := Bool.eq_false_or_eq_true s.cfgDone
  · obtain hs | hs : s.strategy = .sweep ∨ s.strategy = .step := by cases s.strategy <;> simp
    · refine ⟨_, exec_setBrightness_sweep val hc hs, by simp [hc], fun _ _ => ⟨?_, rfl⟩, by simp [hs]⟩
      rw [onTime_register hv, mapOnTime, clamp_eq_max_min (by omega)]
    · refine ⟨_, exec_setBrightness_step val hc hs, by simp [hc], by simp [hs], fun _ _ => ⟨?_, rfl⟩⟩
      rw [skip_register hv, mapSkip, clamp_eq_max_min (by omega)]
  · exact ⟨s, exec_unconfigured hc (by simp), by simp [hc]⟩

/-! ### The maps (R163) -/

/-- The on-time map on brightness values that need no clamping (R161). -/
theorem mapOnTime_of_mem (p : Params) {v : Int} (h0 : 0 ≤ v) (h1 : v ≤ 100) :
    mapOnTime p v = 1 + v * ((p.onTimeMax : Int) - 1) / 100 := by
  rw [mapOnTime, clamp_of_mem h0 h1]

/-- The skip map on brightness values that need no clamping (R162). -/
theorem mapSkip_of_mem (p : Params) {v : Int} (h0 : 0 ≤ v) (h1 : v ≤ 255) :
    mapSkip p v = (255 - v) * (p.skipMax : Int) / 255 := by
  rw [mapSkip, clamp_of_mem h0 h1]

/-- A higher brightness gives no shorter on-time (R163). -/
theorem mapOnTime_mono {p : Params} (h : p.valid = true) {v w : Int} (hvw : v ≤ w) : mapOnTime p v ≤ mapOnTime p w := by
  obtain ⟨-, -, hmin, -⟩ := (Params.valid_iff p).mp h
  have hrange : (0 : Int) ≤ (p.onTimeMax : Int) - 1 := by omega
  have hclamp : clamp v 0 100 ≤ clamp w 0 100 := clamp_mono (by omega) hvw
  have hmul := mul_le_mul_of_nonneg_right hclamp hrange
  exact Int.add_le_add_left (Int.ediv_le_ediv (by omega) hmul) 1

/-- A higher brightness gives no more skipped phases (R163). -/
theorem mapSkip_antitone (p : Params) {v w : Int} (hvw : v ≤ w) : mapSkip p w ≤ mapSkip p v := by
  have hclamp : clamp v 0 255 ≤ clamp w 0 255 := clamp_mono (by omega) hvw
  have hmul := mul_le_mul_of_nonneg_right (Int.sub_le_sub_left hclamp 255) (Int.natCast_nonneg p.skipMax)
  exact Int.ediv_le_ediv (by omega) hmul

theorem mapOnTime_zero (p : Params) : mapOnTime p 0 = 1 := by
  simp [mapOnTime_of_mem]

theorem mapOnTime_full (p : Params) : mapOnTime p 100 = p.onTimeMax := by
  rw [mapOnTime_of_mem p (by omega) le_rfl]
  omega

theorem mapSkip_zero (p : Params) : mapSkip p 0 = p.skipMax := by
  rw [mapSkip_of_mem p le_rfl (by omega)]
  omega

theorem mapSkip_full (p : Params) : mapSkip p 255 = 0 := by
  simp [mapSkip_of_mem]

/-- With fewer on-times than brightness steps, the lowest step does not lengthen the on-time (R163). -/
theorem mapOnTime_one {p : Params} (h : p.valid = true) (hlt : (p.onTimeMax : Int) - 1 < 100) : mapOnTime p 1 = 1 := by
  obtain ⟨-, -, hmin, -⟩ := (Params.valid_iff p).mp h
  rw [mapOnTime_of_mem p (by omega) (by omega)]
  omega

/-- With fewer skip counts than brightness steps, the highest step does not lower the skip count (R163). -/
theorem mapSkip_almost_full {p : Params} (hlt : p.skipMax < 255) : mapSkip p 254 = 0 := by
  rw [mapSkip_of_mem p (by omega) (by omega)]
  omega

/-- Settles O44: the maps are flat at the end where their value is smallest, from 0 to 1 and from 254 to 255. -/
theorem brightnessMapsAreBoundedAndMonotonic : Obligations.BrightnessMapsAreBoundedAndMonotonic := by
  intro p hv
  refine ⟨fun v => ?_, fun v w hvw => ⟨mapOnTime_mono hv hvw, mapSkip_antitone p hvw⟩, mapOnTime_zero p,
    mapOnTime_full p, mapSkip_zero p, mapSkip_full p, fun hlt => ⟨0, le_rfl, by omega, ?_⟩,
    fun hlt => ⟨254, by omega, by omega, ?_⟩⟩
  · obtain ⟨hmin, hmax⟩ := mapOnTime_bounds hv v
    exact ⟨hmin, hmax, mapSkip_bounds p v⟩
  · exact (mapOnTime_zero p).trans (mapOnTime_one hv hlt).symm
  · exact (mapSkip_almost_full hlt).trans (mapSkip_full p).symm

end Sys2Proof.Machine
end

section
/-! PROOFS. CONFIGURE, NOP, the reserved opcodes and the re-configuration fault (R180 to R185, R202). -/

namespace Sys2Proof.Machine

/-! ### The first CONFIGURE (R180) -/

/-- The digit count the first CONFIGURE sets, as R180 clamps it. -/
theorem configuredCount_eq_max_min {p : Params} (hv : p.valid = true) (dcnt : BitVec 4) :
    (configuredCount p dcnt).toNat = max 1 (min dcnt.toNat p.maxDigits) := by
  obtain ⟨hmin, -⟩ := (Params.valid_iff p).mp hv
  have hcount := configuredCount_toNat hv dcnt
  rw [clamp_eq_max_min (by omega)] at hcount
  omega

/-- The first CONFIGURE blanks the masks the block has and leaves the positions beyond them (R180). -/
theorem read_blankMasks {s : State} (hv : s.params.valid = true) (hwf : Memory.wf s.mask) (i : Nat) :
    Memory.read (blankMasks s) i = if i < s.params.maxDigits then 0x00#8 else Memory.read s.mask i := by
  obtain ⟨-, -, hblank, -⟩ := Params.table_spec hv
  rw [blankMasks, Memory.read_writeEach hwf, Option.getD_some, hblank]

/-- Settles O32: the next state is `configureOnce`, whose count is clamped and whose masks read blank. -/
theorem firstConfigureSetsTheConfiguration : Obligations.FirstConfigureSetsTheConfiguration := by
  intro s pol strat dcnt hv hwf hc
  refine ⟨_, exec_configure_first pol strat dcnt hc, configuredCount_eq_max_min hv dcnt, rfl, rfl, rfl, rfl,
    fun i hi => ?_, fun i hi => ?_, rfl, rfl, rfl, rfl, rfl⟩
  · rw [configureOnce_mask, read_blankMasks hv hwf, if_pos hi]
  · rw [configureOnce_mask, read_blankMasks hv hwf, if_neg (by omega)]

/-! ### The commands that do nothing (R183 to R185) -/

/-- Settles O30: a word with an opcode from 0x8 up decodes to a reserved command, whose meaning is NOP's. -/
theorem reservedOpcodesExecuteAsNop : Obligations.ReservedOpcodesExecuteAsNop := by
  intro s
  refine ⟨exec_nop s, fun op => exec_reserved op s, fun w hw => ?_⟩
  rw [decode_reserved hw, exec_reserved]

/-- Settles O31: a command `isConfigure` denies is no CONFIGURE, and the others do nothing before configuration. -/
theorem commandsBeforeConfigurationDoNothing : Obligations.CommandsBeforeConfigurationDoNothing := by
  intro i s hc hi
  refine exec_unconfigured hc ?_
  rintro pol strat dcnt rfl
  cases hi

/-! ### The second CONFIGURE (R181, R202) -/

/-- STATUS bit 2 stays defined in the faulted state and reads 1, whatever the free values are (R24, R202). -/
theorem rdReg_status_of_faulted {s : State} (hu : s.ubFault = true) : (rdReg s 0x00#6).getLsbD 2 = true := by
  have hbit : ubFaultBit.getLsbD 2 = true := by decide
  simp [rdReg, faultedWord, hu, hbit]

/-- Settles O35: the fault carries the faulted state, which has `ub_fault` 1 and the parameters of the block. -/
theorem secondConfigureRaisesTheFault : Obligations.SecondConfigureRaisesTheFault := by
  intro s pol strat dcnt hc
  exact ⟨faultedState s, exec_configure_again pol strat dcnt hc, faultedState_ubFault s,
    rdReg_status_of_faulted (faultedState_ubFault s), faultedState_params s⟩

end Sys2Proof.Machine
end

section
/-! PROOFS. Decoder and encoder as inverses, and the spec's own words and lines (R74, R77 to R80). -/

namespace Sys2Proof.Machine

open Sys2Proof.Laws

/-! ### Decoding an encoded command (R80) -/

/-- The opcode of a command's word is its row's (R72). -/
theorem opcode_encode {i : Instr} (h : OpcodeField.Statement i) : opcode (encode i) = OpcodeField.opcodeOf i :=
  (field_opcode _).symm.trans h

/-- A field of a command's word, from the number of the encoding. -/
theorem field_encode {i : Instr} {lo len : Nat} {x : BitVec len} (h : encodeNat i / 2 ^ lo % 2 ^ len = x.toNat) :
    field (encode i) lo len = x := by
  apply BitVec.eq_of_toNat_eq
  rw [field_toNat, encode_toNat, h]

/-- A bit of a command's word, from the number of the encoding. -/
theorem bit_encode {i : Instr} {k : Nat} {b : Bool} (h : encodeNat i / 2 ^ k % 2 = b.toNat) :
    (encode i).getLsbD k = b := by
  rw [bit_eq, encode_toNat, h]
  cases b <;> rfl

theorem decode_encode_configure (pol : Polarity) (strat : Strategy) (dcnt : BitVec 4) :
    decode (encode (.configure pol strat dcnt)) = .configure pol strat dcnt := by
  have hpol := pol.code_lt
  have hstrat := strat.bit.toNat_lt
  rw [decode_configure (opcode_encode (OpcodeField.configure pol strat dcnt)),
    field_encode (x := BitVec.ofNat 2 pol.code), bit_encode (b := strat.bit), field_encode (x := dcnt),
    Polarity.ofCode_code, Strategy.ofBit_bit]
  all_goals simp only [encodeNat, BitVec.toNat_ofNat]; omega

theorem decode_encode_setDigit (pos : BitVec 4) (sym : BitVec 5) :
    decode (encode (.setDigit pos sym)) = .setDigit pos sym := by
  rw [decode_setDigit (opcode_encode (OpcodeField.setDigit pos sym)), field_encode (x := pos), field_encode (x := sym)]
  all_goals simp only [encodeNat]; omega

theorem decode_encode_setDigits (cnt : BitVec 4) (y0 y1 y2 y3 y4 y5 y6 y7 : BitVec 5) :
    decode (encode (.setDigits cnt y0 y1 y2 y3 y4 y5 y6 y7)) = .setDigits cnt y0 y1 y2 y3 y4 y5 y6 y7 := by
  rw [decode_setDigits (opcode_encode (OpcodeField.setDigits cnt y0 y1 y2 y3 y4 y5 y6 y7)), field_encode (x := cnt),
    field_encode (x := y0), field_encode (x := y1), field_encode (x := y2), field_encode (x := y3),
    field_encode (x := y4), field_encode (x := y5), field_encode (x := y6), field_encode (x := y7)]
  all_goals simp only [encodeNat]; omega

theorem decode_encode_setBrightness {val : Int} (h : wfBrightness val) :
    decode (encode (.setBrightness val)) = .setBrightness val := by
  obtain ⟨hmin, hmax⟩ := h
  have hfield : field (encode (.setBrightness val)) 0 16 = BitVec.ofInt 16 val := by
    refine field_encode ?_
    rw [BitVec.toNat_ofInt, encodeNat]
    omega
  rw [decode_setBrightness (opcode_encode (OpcodeField.setBrightness val)), brightnessOperand, hfield,
    BitVec.toInt_ofInt_eq_self (by decide) (by omega) (by omega)]

theorem decode_encode_refresh : decode (encode .refresh) = .refresh :=
  decode_refresh (opcode_encode OpcodeField.refresh) (bit_encode rfl)

theorem decode_encode_refreshT (ot : BitVec 16) : decode (encode (.refreshT ot)) = .refreshT ot := by
  rw [decode_refreshT (opcode_encode (OpcodeField.refreshT ot)) (bit_encode ?_), field_encode (x := ot)]
  all_goals simp only [encodeNat, Bool.toNat_true]; omega

theorem decode_encode_setNumber {sgn : Bool} {val : Int} (dp : BitVec 4) (h : wfNumber sgn val) :
    decode (encode (.setNumber sgn dp val)) = .setNumber sgn dp val := by
  have hsgn := sgn.toNat_lt
  have hbit : (encode (.setNumber sgn dp val)).getLsbD 36 = sgn := by
    refine bit_encode ?_
    rw [encodeNat]
    omega
  have hdp : field (encode (.setNumber sgn dp val)) 32 4 = dp := by
    refine field_encode ?_
    rw [encodeNat]
    omega
  have hval : field (encode (.setNumber sgn dp val)) 0 32 = BitVec.ofInt 32 val := by
    refine field_encode ?_
    rw [BitVec.toNat_ofInt, encodeNat]
    omega
  rw [decode_setNumber (opcode_encode (OpcodeField.setNumber sgn dp val)), hbit, hdp, numberOperand, hbit, hval]
  cases sgn with
  | true =>
    obtain ⟨hmin, hmax⟩ : -2147483648 ≤ val ∧ val ≤ 2147483647 := h
    rw [if_pos rfl, BitVec.toInt_ofInt_eq_self (by decide) (by omega) (by omega)]
  | false =>
    obtain ⟨hmin, hmax⟩ : 0 ≤ val ∧ val ≤ 4294967295 := h
    rw [if_neg (by decide), toNat_ofInt_of_fits hmin (by omega), Int.toNat_of_nonneg hmin]

theorem decode_encode_reserved {op : BitVec 4} (h : wfReserved op) :
    decode (encode (.reserved op)) = .reserved op := by
  have hop : opcode (encode (.reserved op)) = op.toNat := opcode_encode (OpcodeField.reserved op)
  rw [decode_reserved (hop ▸ h), field_encode (x := op)]
  simp only [encodeNat]
  omega

/-- Settles O1, command by command: the opcode is the row's, and each operand is a field of the encoding's number. -/
theorem decodeOfEncodeIsTheCommand : Obligations.DecodeOfEncodeIsTheCommand := by
  intro i hi
  cases i with
  | nop => exact decode_nop (opcode_encode OpcodeField.nop)
  | configure pol strat dcnt => exact decode_encode_configure pol strat dcnt
  | setDigit pos sym => exact decode_encode_setDigit pos sym
  | setDigits cnt y0 y1 y2 y3 y4 y5 y6 y7 => exact decode_encode_setDigits cnt y0 y1 y2 y3 y4 y5 y6 y7
  | setBrightness val => exact decode_encode_setBrightness hi
  | refresh => exact decode_encode_refresh
  | refreshT ot => exact decode_encode_refreshT ot
  | advanceStep => exact decode_advanceStep (opcode_encode OpcodeField.advanceStep)
  | setNumber sgn dp val => exact decode_encode_setNumber dp hi
  | reserved op => exact decode_encode_reserved hi

/-! ### Encoding a decoded word (R71, R74) -/

/-- Clearing the bits outside a mask a second time changes nothing. -/
theorem masked_masked (w m : CmdWord) : (w &&& m) &&& m = w &&& m := by rw [BitVec.and_assoc, BitVec.and_self]

/-- Clearing the reserved bits of a word does not change its format: every format names the bits that choose it (R71). -/
theorem formatBits_of_cleared (w : CmdWord) : formatBits (w &&& formatBits w) = formatBits w := by
  have hclear := masked_masked w (formatBits w)
  have hop : opcode (w &&& formatBits w) = opcode w := by
    rw [← field_opcode, ← field_opcode, field_eq_of_masked_eq hclear (formatBits_covers_opcode w)]
  by_cases h5 : opcode w = 5
  · cases ht : w.getLsbD 16 with
    | false =>
      have hcleared : (w &&& formatBits w).getLsbD 16 = false := by rw [BitVec.getLsbD_and, ht, Bool.false_and]
      rw [formatBits_refresh (hop.trans h5) hcleared, formatBits_refresh h5 ht]
    | true =>
      have hkept : (w &&& formatBits w).getLsbD 16 = true := by
        rw [formatBits_refreshT h5 ht, BitVec.getLsbD_and, ht]
        decide
      rw [formatBits_refreshT (hop.trans h5) hkept, formatBits_refreshT h5 ht]
  · generalize w &&& formatBits w = v at hop
    unfold formatBits
    rw [hop]
    split
    case h_5 => contradiction
    all_goals rfl

/-- Settles O6: the cleared word decodes to the same command, and the encoding inverts the decoder on it. -/
theorem encodeOfDecodeClearsOnlyReservedBits : Obligations.EncodeOfDecodeClearsOnlyReservedBits := by
  intro w
  have hclear := masked_masked w (formatBits w)
  rw [decode_eq_of_format_eq hclear.symm]
  exact encode_decode_of_reserved_zero (by rw [formatBits_of_cleared, hclear])

/-! ### The decoded commands (R72, R73) -/

/-- The brightness operand is a signed 16-bit value (R73). -/
theorem brightnessOperand_wf (w : CmdWord) : wfBrightness (brightnessOperand w) :=
  ⟨BitVec.le_toInt _, Int.le_of_lt_add_one BitVec.toInt_lt⟩

/-- The number operand is read as its sign flag says (R73). -/
theorem numberOperand_wf (w : CmdWord) : wfNumber (w.getLsbD 36) (numberOperand w) := by
  rw [wfNumber, numberOperand]
  cases w.getLsbD 36 with
  | true =>
    have hlow := BitVec.le_toInt (field w 0 32)
    have hhigh := BitVec.toInt_lt (x := field w 0 32)
    rw [if_pos rfl, if_pos rfl]
    omega
  | false =>
    rw [if_neg (by decide), if_neg (by decide)]
    omega

theorem decode_wf (w : CmdWord) : (decode w).wf := by
  match h : opcode w with
  | 0 => rw [decode_nop h]; trivial
  | 1 => rw [decode_configure h]; trivial
  | 2 => rw [decode_setDigit h]; trivial
  | 3 => rw [decode_setDigits h]; trivial
  | 4 => rw [decode_setBrightness h]; exact brightnessOperand_wf w
  | 5 =>
    cases ht : w.getLsbD 16 with
    | false => rw [decode_refresh h ht]; trivial
    | true => rw [decode_refreshT h ht]; trivial
  | 6 => rw [decode_advanceStep h]; trivial
  | 7 => rw [decode_setNumber h]; exact numberOperand_wf w
  | k + 8 =>
    rw [decode_reserved (by omega)]
    show 8 ≤ (field w 60 4).toNat
    rw [field_opcode]
    omega

/-- Settles O2. -/
theorem everyWordIsAWellFormedCommand : Obligations.EveryWordIsAWellFormedCommand :=
  fun w => ⟨decode_wf w, fun h => ⟨_, decode_reserved h, field_opcode w⟩⟩

/-- The decoder keeps the opcode (R72, R77). -/
theorem opcodeOf_decode (w : CmdWord) : OpcodeField.opcodeOf (decode w) = opcode w := by
  match h : opcode w with
  | 0 => rw [decode_nop h]; rfl
  | 1 => rw [decode_configure h]; rfl
  | 2 => rw [decode_setDigit h]; rfl
  | 3 => rw [decode_setDigits h]; rfl
  | 4 => rw [decode_setBrightness h]; rfl
  | 5 =>
    cases ht : w.getLsbD 16 with
    | false => rw [decode_refresh h ht]; rfl
    | true => rw [decode_refreshT h ht]; rfl
  | 6 => rw [decode_advanceStep h]; rfl
  | 7 => rw [decode_setNumber h]; rfl
  | k + 8 =>
    rw [decode_reserved (by omega)]
    exact (field_opcode w).trans h

/-! ### The spec's own words and lines -/

/-- Settles O7, by running the decoder. -/
theorem specWordsDecode : Obligations.SpecWordsDecode := by
  unfold Obligations.SpecWordsDecode
  decide

/-- Settles O8, by running the assembler. -/
theorem specLinesAssemble : Obligations.SpecLinesAssemble := by
  unfold Obligations.SpecLinesAssemble
  decide

end Sys2Proof.Machine
end

section
/-! PROOFS. What an edge does: the order of R131, faults and refusals, and who writes which register (R11, R23 to R30, R200). -/

namespace Sys2Proof.Machine

/-! ### The order of an edge (R131) -/

/-- An edge of the faulted state without reset (R202, log 8). -/
theorem step_of_faulted {s : State} (hv : s.params.valid = true) (hr : (edgeNow s).rst = false) (hu : s.ubFault = true) :
    step s = .fault (.inFaultState (faultedState (afterInputs s))) := by simp [step, edge, hv, hr, hu]

/-- An edge of a block whose parameters break R6 (log 3). -/
theorem step_of_invalid {s : State} (hv : s.params.valid = false) : step s = .refused .parameterSet := by
  simp [step, edge, hv]

/-- Settles O9. -/
theorem stepRunsTheDecodedCommand : Obligations.StepRunsTheDecodedCommand := by
  intro s e l hv hin hr hu hq hc
  have hnow : edgeNow s = e := by simp [edgeNow, hin]
  have hafter : afterInputs s = { s with inputs := l } := by simp [afterInputs, hin]
  rw [step_of_command hv (by rwa [hnow]) hu hq (by rwa [hnow]), hnow, hafter]

/-- Settles O10, one equation of `step` for each choice. -/
theorem edgeChoosesInOrder : Obligations.EdgeChoosesInOrder :=
  fun _ hv => ⟨step_of_rst hv, fun hr hu => ⟨_, step_of_faulted hv hr hu⟩, fun hr hu =>
    ⟨step_of_command hv hr hu, step_of_quiescent hv hr hu, step_of_segOn hv hu hr, step_of_digOn hv hu hr,
      step_of_hold hv hu hr, step_of_digOff hv hu hr, step_of_segOff hv hu hr, step_of_adv hv hu hr⟩⟩

/-- Settles O12: where `seq` is not IDLE, the branch of an edge that reads the command port is not taken. -/
theorem busyBlockIgnoresTheCommandPort : Obligations.BusyBlockIgnoresTheCommandPort := by
  intro s e l v w hq
  simp only [step, edge, withInputs_seq, hq, if_false]
  rfl

/-! ### Faults and refusals (R6, R200) -/

/-- CONFIGURE is the command of opcode 0x1 (R72). -/
theorem isConfigure_decode (w : CmdWord) : isConfigure (decode w) = true ↔ opcode w = 1 := by
  rw [← opcodeOf_decode]
  have hwf := decode_wf w
  generalize decode w = i at hwf
  cases i with
  | reserved op =>
    have hop : 8 ≤ op.toNat := hwf
    have hne : op.toNat ≠ 1 := by omega
    simpa [isConfigure, Laws.OpcodeField.opcodeOf] using hne
  | _ => simp [isConfigure, Laws.OpcodeField.opcodeOf]

/-- A command faults exactly when it is a CONFIGURE of a configured block (R181, R200). -/
theorem exec_faults_iff {i : Instr} {s : State} :
    (∃ r, exec i s = .fault r) ↔ isConfigure i = true ∧ s.cfgDone = true := by
  constructor
  · rintro ⟨r, hr⟩
    obtain ⟨t, ht⟩ | ⟨hc, ⟨pol, strat, dcnt, rfl⟩, -⟩ := exec_outcome i s
    · rw [ht] at hr
      cases hr
    · exact ⟨rfl, hc⟩
  · rintro ⟨hi, hc⟩
    cases i with
    | configure pol strat dcnt => exact ⟨_, exec_configure_again pol strat dcnt hc⟩
    | _ => cases hi

/-- Settles O13: of the branches of an edge, the faulted state's faults, and a command does as `exec_faults_iff` says. -/
theorem onlyReconfigurationFaults : Obligations.OnlyReconfigurationFaults := by
  intro s hv
  cases hr : (edgeNow s).rst with
  | true => simp [step_of_rst hv hr]
  | false =>
    cases hu : s.ubFault with
    | true => simp [step_of_faulted hv hr hu]
    | false =>
      by_cases hq : s.seq = .idle
      · cases hc : (edgeNow s).cmdValid with
        | true =>
          rw [step_of_command hv hr hu hq hc, exec_faults_iff, isConfigure_decode]
          simp [hq]
        | false => simp [step_of_quiescent hv hr hu hq hc]
      · simp [step_of_busy hv hr hu hq, hq]

/-- An edge is refused exactly in a block whose parameters break R6. -/
theorem step_refused_iff {s : State} : (∃ r, step s = .refused r) ↔ s.params.valid = false := by
  refine ⟨fun ⟨r, hr⟩ => ?_, fun hv => ⟨_, step_of_invalid hv⟩⟩
  by_contra hv
  rw [Bool.not_eq_false] at hv
  simp only [step, edge, hv, Bool.true_eq_false, if_false] at hr
  split_ifs at hr
  exact exec_not_refused _ _ _ hr

/-- The constraints on the symbol table, one by one (R6, R103). -/
theorem tableValid_iff (p : Params) : p.tableValid = true ↔
    p.symbolTable.length = 18 ∧ p.symbolTable[0]? = some 0x3F#8 ∧ p.symbolTable[16]? = some 0x00#8 ∧
      p.symbolTable[17]? = some 0x40#8 ∧ ∀ m ∈ p.symbolTable, m.getLsbD 7 = false := by
  simp [Params.tableValid, and_assoc]

/-- Settles O14. -/
theorem exactlyBadParameterSetsAreRefused : Obligations.ExactlyBadParameterSetsAreRefused := by
  intro s
  rw [step_refused_iff, ← Bool.not_eq_true, Params.valid_iff, tableValid_iff]

/-! ### What a command can do -/

/-- What a command that answers a next state did: nothing, the first CONFIGURE (R180), or on a configured block a write of the
masks (R28), a write of the brightness registers (R29), or the start of the sequencer (R140 to R142). -/
inductive CommandEffect (s : State) : Instr → State → Prop where
  /-- No register is written. -/
  | nothing (i : Instr) : CommandEffect s i s
  /-- The first CONFIGURE. -/
  | configured (pol : Polarity) (strat : Strategy) (dcnt : BitVec 4) (hc : s.cfgDone = false) :
      CommandEffect s (.configure pol strat dcnt) (configureOnce pol strat dcnt s)
  /-- Masks are written, by a command that `writesMasks` names. -/
  | masksWritten (i : Instr) (m : Memory) (hc : s.cfgDone = true) (hi : writesMasks i = true) :
      CommandEffect s i { s with mask := m }
  /-- SET_BRIGHTNESS. -/
  | brightnessWritten (val : Int) (o : BitVec 16) (k : BitVec 8) (hc : s.cfgDone = true) :
      CommandEffect s (.setBrightness val) { s with onTime := o, skip := k }
  /-- A sweep or a step is started, by a command that writes no mask. -/
  | sequencerStarted (i : Instr) (m : Strategy) (j : BitVec 3) (o : BitVec 16) (q : Seq) (hc : s.cfgDone = true)
      (hi : writesMasks i = false) : CommandEffect s i { s with seqMode := m, curSeg := j, sweepT := o, seq := q }

/-- On a configured block (R181 to R184). -/
theorem exec_effect_of_configured {i : Instr} {s t : State} (hc : s.cfgDone = true) (h : exec i s = .next t) :
    CommandEffect s i t := by
  cases i with
  | nop => cases h; exact .nothing _
  | reserved op => cases h; exact .nothing _
  | configure pol strat dcnt => rw [exec_configure_again pol strat dcnt hc] at h; cases h
  | setDigit pos sym =>
    simp only [exec, execSetDigit, if_pos hc] at h
    cases h
    exact .masksWritten _ _ hc rfl
  | setDigits cnt y0 y1 y2 y3 y4 y5 y6 y7 =>
    by_cases hn : s.cfgDone = true ∧ cnt.toNat ≤ s.digitCount.toNat
    · rw [exec_setDigits_effective hc hn.2] at h; cases h; exact .masksWritten _ _ hc rfl
    · rw [exec_setDigits_ineffective hn] at h; cases h; exact .nothing _
  | setNumber sgn dp val =>
    cases hb : s.params.hasSetNumber with
    | true => rw [exec_setNumber_effective hb hc] at h; cases h; exact .masksWritten _ _ hc rfl
    | false => rw [exec_setNumber_ineffective (.inl hb)] at h; cases h; exact .nothing _
  | setBrightness val =>
    obtain hs | hs : s.strategy = .sweep ∨ s.strategy = .step := by cases s.strategy <;> simp
    · rw [exec_setBrightness_sweep val hc hs] at h; cases h; exact .brightnessWritten val _ s.skip hc
    · rw [exec_setBrightness_step val hc hs] at h; cases h; exact .brightnessWritten val s.onTime _ hc
  | refresh =>
    by_cases hs : s.cfgDone = true ∧ s.strategy = .sweep
    · rw [exec_refresh_effective hc hs.2] at h; cases h; exact .sequencerStarted _ _ _ _ _ hc rfl
    · rw [exec_refresh_ineffective hs] at h; cases h; exact .nothing _
  | refreshT ot =>
    by_cases hs : s.cfgDone = true ∧ s.strategy = .sweep
    · rw [exec_refreshT_effective ot hc hs.2] at h; cases h; exact .sequencerStarted _ _ _ _ _ hc rfl
    · rw [exec_refreshT_ineffective ot hs] at h; cases h; exact .nothing _
  | advanceStep =>
    by_cases hs : s.cfgDone = true ∧ s.strategy = .step
    · rw [exec_advanceStep_effective hc hs.2] at h; cases h; exact .sequencerStarted _ _ s.curSeg s.sweepT _ hc rfl
    · rw [exec_advanceStep_ineffective hs] at h; cases h; exact .nothing _

/-- If a command answers a next state, it had one of the five effects (R185 before configuration). -/
theorem exec_effect {i : Instr} {s t : State} (h : exec i s = .next t) : CommandEffect s i t := by
  obtain hc | hc := Bool.eq_false_or_eq_true s.cfgDone
  · exact exec_effect_of_configured hc h
  · cases i with
    | configure pol strat dcnt => rw [exec_configure_first pol strat dcnt hc] at h; cases h; exact .configured _ _ _ hc
    | _ => rw [exec_unconfigured hc (by simp)] at h; cases h; exact .nothing _

/-! ### Who writes what (R23 to R30) -/

section
variable (s : State)

@[simp] theorem microStep_params : (microStep s).params = s.params := by rw [microStep_frame]
@[simp] theorem microStep_cfgDone : (microStep s).cfgDone = s.cfgDone := by rw [microStep_frame]
@[simp] theorem microStep_ubFault : (microStep s).ubFault = s.ubFault := by rw [microStep_frame]
@[simp] theorem microStep_polarity : (microStep s).polarity = s.polarity := by rw [microStep_frame]
@[simp] theorem microStep_digOnLvl : (microStep s).digOnLvl = s.digOnLvl := by rw [microStep_frame]
@[simp] theorem microStep_segOnLvl : (microStep s).segOnLvl = s.segOnLvl := by rw [microStep_frame]
@[simp] theorem microStep_strategy : (microStep s).strategy = s.strategy := by rw [microStep_frame]
@[simp] theorem microStep_digitCount : (microStep s).digitCount = s.digitCount := by rw [microStep_frame]
@[simp] theorem microStep_mask : (microStep s).mask = s.mask := by rw [microStep_frame]
@[simp] theorem microStep_onTime : (microStep s).onTime = s.onTime := by rw [microStep_frame]
@[simp] theorem microStep_skip : (microStep s).skip = s.skip := by rw [microStep_frame]
@[simp] theorem microStep_inputs : (microStep s).inputs = s.inputs := by rw [microStep_frame]
@[simp] theorem microStep_freeCount : (microStep s).freeCount = s.freeCount := by rw [microStep_frame]
end

/-- ADV alone moves `pos` (R30). -/
theorem microStep_pos {s : State} (h : s.seq ≠ .adv) : (microStep s).pos = s.pos := by
  cases hq : s.seq with
  | adv => exact absurd hq h
  | _ => simp [microStep, hq]

/-- Settles O29: the edge is a micro-operation, whose frame is `microStep_frame`. -/
theorem sequencerFrame : Obligations.SequencerFrame := by
  intro s hv hu hr hq
  refine ⟨_, step_of_busy hv hr hu hq, microStep_frame (afterInputs s), fun hadv => ?_, fun a => ?_⟩
  · exact microStep_pos (s := afterInputs s) hadv
  · rw [microStep_mask, afterInputs_mask]

/-- A command keeps the parameters, the coming inputs and the count of undefined events (R11). -/
theorem exec_keeps_environment {i : Instr} {s t : State} (h : exec i s = .next t) :
    t.params = s.params ∧ t.inputs = s.inputs ∧ t.freeCount = s.freeCount := by
  cases exec_effect h <;> exact ⟨rfl, rfl, rfl⟩

/-- Settles O28. -/
theorem parametersNeverChange : Obligations.ParametersNeverChange := by
  intro s t h
  obtain ⟨-, ⟨-, rfl⟩ | ⟨-, -, -, -, he⟩ | ⟨-, -, -, -, rfl⟩ | ⟨-, -, -, rfl⟩⟩ := step_next_cases h
  · exact ⟨rfl, rfl, rfl⟩
  · exact exec_keeps_environment he
  · exact ⟨rfl, rfl, rfl⟩
  · simp

/-- The two states have the same configuration registers (R23, R25 to R27) and the same fault flag. -/
abbrev sameConfiguration (s t : State) : Prop :=
  t.cfgDone = s.cfgDone ∧ t.polarity = s.polarity ∧ t.digOnLvl = s.digOnLvl ∧ t.segOnLvl = s.segOnLvl ∧
    t.strategy = s.strategy ∧ t.digitCount = s.digitCount ∧ t.ubFault = s.ubFault

/-- A command of a configured block keeps the configuration: a CONFIGURE would fault (R181). -/
theorem exec_keeps_configuration {i : Instr} {s t : State} (hc : s.cfgDone = true) (h : exec i s = .next t) :
    sameConfiguration s t := by
  cases exec_effect h with
  | configured pol strat dcnt hnot => simp [hc] at hnot
  | _ => simp [sameConfiguration]

/-- An edge without reset keeps the configuration of a configured block (R23). -/
theorem step_keeps_configuration {s t : State} (hc : s.cfgDone = true) (hr : (edgeNow s).rst = false)
    (h : step s = .next t) : sameConfiguration s t ∧ s.ubFault = false := by
  obtain ⟨-, ⟨hrst, -⟩ | ⟨-, hu, -, -, he⟩ | ⟨-, hu, -, -, rfl⟩ | ⟨-, hu, -, rfl⟩⟩ := step_next_cases h
  · simp [hr] at hrst
  · exact ⟨exec_keeps_configuration (s := afterInputs s) hc he, hu⟩
  · exact ⟨by simp [sameConfiguration], hu⟩
  · exact ⟨by simp [sameConfiguration], hu⟩

/-- Settles O26. -/
theorem configurationIsImmutable : Obligations.ConfigurationIsImmutable := by
  intro s t hc hr h
  obtain ⟨⟨hcfg, hpol, hdig, hseg, hstrat, hcnt, hub⟩, hu⟩ := step_keeps_configuration hc hr h
  exact ⟨hcfg.trans hc, hpol, hdig, hseg, hstrat, hcnt, hub.trans hu⟩

/-- A command that leaves the block unconfigured did nothing (R185). -/
theorem exec_eq_of_still_unconfigured {i : Instr} {s t : State} (hs : s.cfgDone = false) (ht : t.cfgDone = false)
    (h : exec i s = .next t) : t = s := by
  cases i with
  | configure pol strat dcnt => rw [exec_configure_first pol strat dcnt hs] at h; cases h; cases ht
  | _ => rw [exec_unconfigured hs (by simp)] at h; cases h; rfl

/-- Settles O24: reset leads to the reset state; a configured block stays configured without it; an unconfigured one is idle, and
no command but CONFIGURE does anything. -/
theorem unconfiguredBlockStaysInReset : Obligations.UnconfiguredBlockStaysInReset := by
  intro s t hreset h ht
  cases hr : (edgeNow s).rst with
  | true =>
    obtain ⟨hv, -⟩ := step_next_cases h
    rw [step_of_rst hv hr] at h
    cases h
    rfl
  | false =>
    cases hc : s.cfgDone with
    | true =>
      obtain ⟨⟨hcfg, -⟩, -⟩ := step_keeps_configuration hc hr h
      simp [hcfg, hc] at ht
    | false =>
      have hs := hreset hc
      have hafter : afterInputs s = resetEdge (afterInputs s) := congrArg afterInputs hs
      have hq : s.seq = .idle := by rw [hs, resetEdge_seq]
      obtain ⟨-, ⟨hrst, -⟩ | ⟨-, -, -, -, he⟩ | ⟨-, -, -, -, rfl⟩ | ⟨-, -, hbusy, -⟩⟩ := step_next_cases h
      · simp [hr] at hrst
      · rw [exec_eq_of_still_unconfigured (s := afterInputs s) hc ht he]
        exact hafter
      · exact hafter
      · exact absurd hq hbusy

/-- Settles O25: outside reset only an accepted command can write masks, and it is a CONFIGURE or one that `writesMasks` names. -/
theorem onlyMaskCommandsWriteTheMasks : Obligations.OnlyMaskCommandsWriteTheMasks := by
  intro s t a h hne
  obtain ⟨-, ⟨hr, -⟩ | ⟨-, -, hq, hcmd, he⟩ | ⟨-, -, -, -, rfl⟩ | ⟨-, -, -, rfl⟩⟩ := step_next_cases h
  · exact .inl hr
  · refine .inr ⟨hq, hcmd, ?_⟩
    generalize decode (edgeNow s).cmdData = i at he
    cases exec_effect he with
    | configured => exact .inl rfl
    | masksWritten i m hc hi => exact .inr hi
    | _ => exact absurd rfl hne
  · exact absurd rfl hne
  · simp at hne

/-- Settles O27: a command that writes a brightness register is a SET_BRIGHTNESS, whose opcode is 0x4. -/
theorem onlySetBrightnessWritesBrightness : Obligations.OnlySetBrightnessWritesBrightness := by
  intro s t h hr hne
  obtain ⟨-, ⟨hrst, -⟩ | ⟨-, -, hq, hcmd, he⟩ | ⟨-, -, -, -, rfl⟩ | ⟨-, -, -, rfl⟩⟩ := step_next_cases h
  · simp [hr] at hrst
  · refine ⟨hq, hcmd, ?_⟩
    rw [← opcodeOf_decode]
    generalize decode (edgeNow s).cmdData = i at he
    cases exec_effect he with
    | brightnessWritten val o k hc => exact ⟨rfl, hc⟩
    | _ => simp at hne
  · simp at hne
  · simp at hne

/-- Settles O42: a line is a function of the registers a mask command leaves alone. -/
theorem maskWritesLeaveTheLinesAlone : Obligations.MaskWritesLeaveTheLinesAlone := by
  intro i s t hi h
  cases exec_effect h with
  | nothing => exact ⟨fun _ => rfl, fun _ => rfl, rfl, rfl⟩
  | masksWritten => exact ⟨fun _ => rfl, fun _ => rfl, rfl, rfl⟩
  | configured => cases hi
  | brightnessWritten => cases hi
  | sequencerStarted i m j o q hc hnot => simp [hi] at hnot

end Sys2Proof.Machine
end

section
/-! PROOFS. The invariant over all runs, the faulted state, the drive commands and the idle lines (R29, R130, R140 to R149, R180,
R202). -/

namespace Sys2Proof.Machine

/-! ### The invariant -/

/-- Settles O15: a reset state is what a reset edge leaves. -/
theorem resetStateMeetsTheInvariant : Obligations.ResetStateMeetsTheInvariant :=
  ⟨resetEdge_inv (s := State.reset) (by decide),
    fun p l n hv => resetEdge_inv (s := { State.resetWith p with inputs := l, freeCount := n }) hv⟩

/-- Settles O16, by the inversion of the edge and one lemma for each command and micro-operation. -/
theorem stepKeepsTheInvariant : Obligations.StepKeepsTheInvariant := fun _ _ h hs => step_keeps_inv h hs

/-- Settles O17, by induction over the run. -/
theorem reachableStatesMeetTheInvariant : Obligations.ReachableStatesMeetTheInvariant := fun _ hr => reachable_inv hr

/-- Settles O23, a part of the invariant. -/
theorem brightnessRegistersStayInRange : Obligations.BrightnessRegistersStayInRange := by
  intro s hr
  obtain ⟨-, -, -, hbright, -⟩ := reachable_inv hr
  exact hbright

/-- Settles O22: what the invariant says of an idle block in STEP mode, its one lit line read bit by bit. -/
theorem stepModeShowsItsPhaseWhenIdle : Obligations.StepModeShowsItsPhaseWhenIdle := by
  intro s hr hs hq
  obtain ⟨-, -, -, ⟨-, hlines⟩, -⟩ := (inv_at_idle hq).mp (sequencing_of_inv (reachable_inv hr))
  obtain ⟨hseg, hdig, hpos⟩ | ⟨hlt, hseg⟩ := hlines hs
  · refine ⟨fun _ => ⟨hseg, hdig⟩, fun hlt => .inl ⟨hseg, hdig, ?_⟩⟩
    obtain hpos | hpos := hpos
    · rw [hpos, BitVec.toNat_zero]
    · omega
  · refine ⟨fun hdark => by omega, fun _ => .inr fun j hj => ?_⟩
    rw [hseg, lineBit_getLsbD]
    simp [hj, eq_comm]

/-! ### The faulted state (R202, R222) -/

/-- Settles O36: an edge without reset leaves another faulted state, a reset edge the reset state. -/
theorem faultLastsUntilReset : Obligations.FaultLastsUntilReset := fun _ hv hu =>
  ⟨rdReg_status_of_faulted hu,
    fun hr => ⟨_, step_of_faulted hv hr hu, faultedState_ubFault _, rdReg_status_of_faulted (faultedState_ubFault _)⟩,
    fun hr => ⟨_, step_of_rst hv hr, rfl, rfl, resetEdge_inv hv⟩⟩

/-! ### The first CONFIGURE at the lines (R130, R180, R182) -/

/-- Settles O33. -/
theorem polarityFixesTheLevels : Obligations.PolarityFixesTheLevels := by
  refine ⟨fun s pol strat dcnt hc => ⟨_, exec_configure_first pol strat dcnt hc, ?_⟩, fun p q => ?_⟩
  · rw [configureOnce_digOnLvl, configureOnce_segOnLvl]
    cases pol <;> simp [digOnLevel, segOnLevel]
  · cases p <;> cases q <;> simp [digOnLevel, segOnLevel]

/-- A segment line of a configured block that is not asserted is driven to its off level (R130). -/
theorem segLine_of_off {s : State} {j : Nat} (hu : s.ubFault = false) (hc : s.cfgDone = true) (hj : j < 8)
    (hoff : s.segAct.getLsbD j = false) : segLine s j = some (!s.segOnLvl) := by
  have hoe : segOe s j = true := by simp [segOe, hu, hc, hj]
  simp only [segLine, segOut, hoe, hu, hoff, if_true, Bool.false_eq_true, if_false]

/-- A declared digit line that is not asserted is driven to its off level (R130). -/
theorem digLine_of_off {s : State} {i : Nat} (hu : s.ubFault = false) (hc : s.cfgDone = true)
    (hline : i < s.params.maxDigits) (hi : i < s.digitCount.toNat) (hoff : s.digAct.getLsbD i = false) :
    digLine s i = some (!s.digOnLvl) := by
  simp [digLine, digOut, digOe, hu, hc, hline, hi, hoff]

/-- An undeclared digit line is high-impedance (R130). -/
theorem digLine_of_undeclared {s : State} {i : Nat} (hu : s.ubFault = false) (hi : s.digitCount.toNat ≤ i) :
    digLine s i = none := by
  simp [digLine, digOe, hu, Nat.not_lt.mpr hi]

/-- Settles O34: `configureOnce` asserts no line, and it declares no more digits than there are lines. -/
theorem configureDrivesDeclaredLinesOff : Obligations.ConfigureDrivesDeclaredLinesOff := by
  intro s pol strat dcnt hv hu hc
  have hcount : (configureOnce pol strat dcnt s).digitCount.toNat ≤ s.params.maxDigits := by
    obtain ⟨hmin, -⟩ := (Params.valid_iff s.params).mp hv
    rw [configureOnce_digitCount, configuredCount_eq_max_min hv]
    omega
  exact ⟨_, exec_configure_first pol strat dcnt hc, fun j hj => segLine_of_off hu rfl hj (by simp),
    fun i hi => digLine_of_off hu rfl (hi.trans_le hcount) hi (by simp), fun i hi => digLine_of_undeclared hu hi⟩

/-! ### Commands at the accepting edge (R115, R140 to R142) -/

/-- Settles O41. -/
theorem setNumberNotBuiltIsNop : Obligations.SetNumberNotBuiltIsNop :=
  fun _ _ _ _ hb => exec_setNumber_ineffective (.inl hb)

/-- A block that is not configured, or has the other strategy, is not configured in this one (D25). -/
theorem not_configured_in {s : State} {a b : Strategy} (hab : a ≠ b) (h : s.cfgDone = false ∨ s.strategy = a) :
    ¬(s.cfgDone = true ∧ s.strategy = b) := by
  rintro ⟨hc, hs⟩
  obtain h | h := h
  · simp [hc] at h
  · exact hab (h.symm.trans hs)

/-- Settles O45. -/
theorem refreshStartsASweep : Obligations.RefreshStartsASweep :=
  fun _ => ⟨exec_refresh_effective, fun h => exec_refresh_ineffective (not_configured_in (by decide) h)⟩

/-- Settles O46: the on-time is `sweepOnTime`, the clamped operand. -/
theorem refreshTClampsItsOnTime : Obligations.RefreshTClampsItsOnTime := by
  intro s ot hv
  by_cases h : s.cfgDone = true ∧ s.strategy = .sweep
  · obtain ⟨hc, hs⟩ := h
    refine ⟨_, exec_refreshT_effective ot hc hs, fun _ _ => ⟨sweepOnTime_eq hv ot, rfl⟩, fun hnot => ?_⟩
    exact absurd ⟨hc, hs⟩ (not_configured_in (by decide) hnot)
  · exact ⟨s, exec_refreshT_ineffective ot h, fun hc hs => absurd ⟨hc, hs⟩ h, fun _ => rfl⟩

/-- Settles O47. -/
theorem advanceStepStartsAStep : Obligations.AdvanceStepStartsAStep := by
  refine fun s => ⟨fun hc hs hp => ?_, fun hc hs hp => ?_,
    fun h => exec_advanceStep_ineffective (not_configured_in (by decide) h)⟩
  · rw [exec_advanceStep_effective hc hs, if_pos hp]
  · rw [exec_advanceStep_effective hc hs, if_neg (by omega)]

end Sys2Proof.Machine
end

section
/-! PROOFS. Stepping at a steady cadence: one interval, and the frame of phases walked by many (R150, R226, R229). -/

namespace Sys2Proof.Machine

/-! ### Runs of an idle block and the invariant over runs -/

theorem run_keeps_inv {k : Nat} {s t : State} (h : s.Inv) (hrun : Sys2Proof.core.run k s = .next t) : t.Inv := by
  induction k generalizing s with
  | zero =>
    rw [run_zero] at hrun
    cases hrun
    exact h
  | succ k ih =>
    rw [run_succ_eq] at hrun
    split at hrun
    · rename_i u hu
      exact ih (step_keeps_inv h hu) hrun
    · cases hrun
    · cases hrun

/-- While inputs are left, the coming edge takes the first of them (log 4). -/
theorem edgeNow_eq_getElem {s : State} (h : 0 < s.inputs.length) : edgeNow s = s.inputs[0] := by
  rw [edgeNow, List.headD_eq_head?_getD, List.head?_eq_getElem?, List.getElem?_eq_getElem h, Option.getD_some]

/-- An idle block to which the host presents nothing only uses up the inputs (R34, R131). -/
theorem run_quiet {s : State} (hv : s.params.valid = true) (hu : s.ubFault = false) (hq : s.seq = .idle) (k : Nat)
    {l : List EdgeInput} (hquiet : ∀ e ∈ l.take k, e.rst = false ∧ e.cmdValid = false) :
    Sys2Proof.core.run k (s.withInputs l) = .next (s.withInputs (l.drop k)) := by
  induction k generalizing l with
  | zero => rfl
  | succ k ih =>
    have hnow : (edgeNow (s.withInputs l)).rst = false ∧ (edgeNow (s.withInputs l)).cmdValid = false := by
      cases l with
      | nil => exact ⟨rfl, rfl⟩
      | cons e l => exact hquiet e (by simp)
    have hrest := ih (l := l.tail) fun e he =>
      hquiet e (List.mem_of_mem_drop (i := 1) (by simpa [List.drop_take] using he))
    rw [List.drop_tail] at hrest
    exact run_succ (step_of_quiescent hv hnow.1 hu hq hnow.2) hrest

/-! ### One interval of the cadence -/

/-- The duty holds over the inputs that are left after some intervals (R229 duty 3). -/
theorem steadySteps_drop {d : Nat} {l : List EdgeInput} (h : steadySteps d l) (k : Nat) : steadySteps d (l.drop (k * d)) := by
  intro m hm
  rw [List.length_drop] at hm
  have hm' := h (k * d + m) (by omega)
  rwa [Nat.mul_add_mod_self_right, ← List.getElem_drop] at hm'

theorem noReset_of_steadySteps {s : State} {d : Nat} (h : steadySteps d s.inputs) : noReset s := by
  intro e he
  obtain ⟨m, hm, rfl⟩ := List.mem_iff_getElem.mp he
  exact (h m hm).1

/-- Between two steps the host presents nothing (R229 duty 3). -/
theorem quiet_of_steadySteps {d a : Nat} {l : List EdgeInput} (h : steadySteps d l) (ha : 1 ≤ a) :
    ∀ e ∈ (l.drop a).take (d - a), e.rst = false ∧ e.cmdValid = false := by
  intro e he
  obtain ⟨m, hm, rfl⟩ := List.mem_iff_getElem.mp he
  rw [List.length_take, List.length_drop] at hm
  obtain ⟨hr, hc, -⟩ := h (a + m) (by omega)
  have hmod : (a + m) % d ≠ 0 := by
    rw [Nat.mod_eq_of_lt (by omega)]
    omega
  rw [List.getElem_take, List.getElem_drop]
  exact ⟨hr, by simpa [hmod] using hc⟩

/-- The longest step has five micro-operations (R232). -/
theorem stepOps_length_le (s : State) : (stepOps s).length ≤ 5 := by
  have hleave : (leaveOps s.pos.toNat).length ≤ 2 := by unfold leaveOps; split <;> simp
  have hshow : (showOps (nextPos s)).length ≤ 2 := by unfold showOps; split <;> simp
  rw [stepOps_length]
  omega

/-- An accepted ADVANCE_STEP and the micro-operations of its step (R142). -/
theorem run_advanceStep {s : State} (h : s.Inv) (hc : s.cfgDone = true) (hs : s.strategy = .step) (hq : s.seq = .idle)
    (hl : noReset s) (hcmd : (edgeNow s).cmdValid = true) (hd : decode (edgeNow s).cmdData = .advanceStep) :
    Sys2Proof.core.run ((stepOps s).length + 1) s =
      .next (steppedTo s (nextPos s) (s.inputs.drop ((stepOps s).length + 1))) := by
  have ⟨hv, hu, _⟩ := h
  have hstep : step s =
      .next (stepWith s (if s.pos.toNat < 8 then .digOff else .adv) s.pos s.segAct s.digAct s.inputs.tail) := by
    rw [step_of_command hv (noReset_now hl) hu hq hcmd, hd]
    exact exec_advanceStep_effective (s := afterInputs s) hc hs
  have hruns := run_of_runsOps (runsOps_step h (noReset_afterInputs hl) hs hq)
  rw [afterInputs_inputs, List.drop_tail] at hruns
  exact run_succ hstep hruns

/-- The step fits the interval, and the block waits for the rest of it (R226). -/
theorem run_interval {s : State} {d : Nat} (h : s.Inv) (hc : s.cfgDone = true) (hs : s.strategy = .step)
    (hq : s.seq = .idle) (hd : 6 ≤ d) (hsteady : steadySteps d s.inputs) (hlen : d ≤ s.inputs.length) :
    Sys2Proof.core.run d s = .next (steppedTo s (nextPos s) (s.inputs.drop d)) := by
  have ⟨hv, hu, _⟩ := h
  have hfit := stepOps_length_le s
  obtain ⟨-, hvalid, hdata⟩ := hsteady 0 (by omega)
  rw [← edgeNow_eq_getElem] at hvalid hdata
  have hstep := run_advanceStep h hc hs hq (noReset_of_steadySteps hsteady) (by simpa using hvalid)
    (hdata (Nat.zero_mod d))
  have hwait := run_quiet (s := steppedTo s (nextPos s) []) hv hu rfl _
    (quiet_of_steadySteps hsteady (show 1 ≤ (stepOps s).length + 1 by omega))
  have hall := run_add hstep hwait
  rw [List.drop_drop, Nat.add_sub_cancel' (by omega)] at hall
  exact hall

/-! ### Many intervals -/

theorem phase_fits (s : State) (m : Nat) : (BitVec.ofNat 9 (m % (8 + s.skip.toNat))).toNat = m % (8 + s.skip.toNat) := by
  have hlt : m % (8 + s.skip.toNat) < 8 + s.skip.toNat := Nat.mod_lt _ (by omega)
  rw [BitVec.toNat_ofNat, Nat.mod_eq_of_lt (by omega)]

/-- The step after the one that showed phase `m mod (8 + skip)` shows the phase of `m + 1` (R139). -/
theorem nextPos_steppedTo (s : State) (m : Nat) (l : List EdgeInput) :
    nextPos (steppedTo s (m % (8 + s.skip.toNat)) l) = (m + 1) % (8 + s.skip.toNat) := by
  show ((BitVec.ofNat 9 (m % (8 + s.skip.toNat))).toNat + 1) % (8 + s.skip.toNat) = _
  rw [phase_fits, Nat.mod_add_mod]

/-- What a step shows depends on its phase alone, not on the phase before it. -/
theorem steppedTo_steppedTo (s : State) (m n : Nat) (l l' : List EdgeInput) :
    steppedTo (steppedTo s m l) n l' = steppedTo s n l' := rfl

/-- After `k` intervals the block shows the phase `k` further on (R150, R226). -/
theorem run_intervals {s : State} {d k : Nat} (h : s.Inv) (hc : s.cfgDone = true) (hs : s.strategy = .step)
    (hq : s.seq = .idle) (hd : 6 ≤ d) (hsteady : steadySteps d s.inputs) (hk : 1 ≤ k) (hlen : k * d ≤ s.inputs.length) :
    Sys2Proof.core.run (k * d) s =
      .next (steppedTo s ((s.pos.toNat + k) % (8 + s.skip.toNat)) (s.inputs.drop (k * d))) := by
  induction k, hk using Nat.le_induction with
  | base =>
    rw [Nat.one_mul] at hlen ⊢
    exact run_interval h hc hs hq hd hsteady hlen
  | succ k hk ih =>
    rw [Nat.succ_mul] at hlen
    have hrun := ih (by omega)
    have hnext := run_interval (d := d) (run_keeps_inv h hrun) hc hs rfl hd (steadySteps_drop hsteady k)
      (show d ≤ (s.inputs.drop (k * d)).length by rw [List.length_drop]; omega)
    rw [steppedTo_steppedTo, nextPos_steppedTo] at hnext
    have hall := run_add hrun hnext
    rwa [show (steppedTo s _ (s.inputs.drop (k * d))).inputs = s.inputs.drop (k * d) from rfl, List.drop_drop,
      ← Nat.succ_mul] at hall

/-- The lines after a step, in a segment phase and in a dark one alike (R149). -/
theorem steppedTo_shows {s : State} {n : Nat} (h : s.Inv) (hn : (BitVec.ofNat 9 n).toNat = n) (l : List EdgeInput) :
    (∀ j < 8, (steppedTo s n l).segAct.getLsbD j = decide (j = n)) ∧
    ∀ i < 8, (steppedTo s n l).digAct.getLsbD i =
      (decide (n < 8) && decide (i < s.digitCount.toNat) && (Memory.read s.mask i).getLsbD n) := by
  obtain ⟨hlit, hdark⟩ := steppedTo_lines s h hn l
  by_cases h8 : n < 8
  · obtain ⟨hseg, hdig⟩ := hlit h8
    refine ⟨hseg, fun i hi => ?_⟩
    rw [hdig i hi, decide_eq_true h8, Bool.true_and]
  · obtain ⟨hseg, hdig⟩ := hdark (by omega)
    refine ⟨fun j hj => ?_, fun i _ => ?_⟩
    · have hne : j ≠ n := by omega
      simp [hseg, hne]
    · simp [hdig, h8]

/-- Settles O57: after the `k` intervals of `run_intervals` the lines are those of the phase reached. -/
theorem steadyStepsWalkTheFrame : Obligations.SteadyStepsWalkTheFrame := by
  intro s d k h hc hs hq hd hsteady hk hlen
  have hfits := phase_fits s (s.pos.toNat + k)
  obtain ⟨hseg, hdig⟩ := steppedTo_shows h hfits (s.inputs.drop (k * d))
  refine ⟨_, run_intervals h hc hs hq hd hsteady hk hlen, hfits, ?_⟩
  have hpos : (steppedTo s ((s.pos.toNat + k) % (8 + s.skip.toNat)) (s.inputs.drop (k * d))).pos.toNat =
      (s.pos.toNat + k) % (8 + s.skip.toNat) := hfits
  rw [hpos]
  refine ⟨hseg, hdig, ?_⟩
  rw [hq]
  rfl

end Sys2Proof.Machine
end
